-- ==== Sys2Proof/Word.lean ====
section
/-! DEFINITION. The word types of the imec-workshop UART PHY and QSPI sequencer. Every quantity of this hardware is an
unsigned bit vector of fixed width (45_arithmetic_and_control.md rule R145). -/

namespace Sys2Proof

/-- Eight bits: a data byte, a lane payload, a flash opcode (00_scope.md rule R9, `SYMBOL_BITS`). -/
abbrev Byte := BitVec 8

/-- Thirty-two bits: `wdata` and `rdata` of a register operation (30_encoding.md rule R61). -/
abbrev BusWord := BitVec 32

/-- A 24-bit flash byte address (00_scope.md rule R9, `ADDR_BITS`). -/
abbrev FlashAddr := BitVec 24

/-- A 24-bit baud divisor or baud timer (00_scope.md rule R9, `DIVISOR_BITS`). -/
abbrev Divisor := BitVec 24

/-- A byte offset inside the register space (30_encoding.md rule R61, `off[9:0]`). -/
abbrev RegOffset := BitVec 10

end Sys2Proof
end

