-- ==== Sys2Proof/Config.lean ====
section
/-! DEFINITION. What an implementation fixes: the build parameters of 00_scope.md rule R9, the value this hardware takes
for each, the constants that are not arguments, and the one value the spec leaves free (what the flash holds). -/

namespace Sys2Proof

/-- The parity of the line frame (00_scope.md rule R9, `PARITY`). -/
inductive Parity
  | none | even | odd | mark | space
  deriving DecidableEq, Repr

/-- The register offsets (00_scope.md rule R9, `OFF_*` and `TX_BLOCK_OFFSET`); the RX block stands at offset 0
(20_memory.md rule R51). -/
structure Layout where
  config    : RegOffset
  phyConfig : RegOffset
  status    : RegOffset
  data      : RegOffset
  txBlock   : RegOffset
  deriving DecidableEq, Repr

/-- The build parameters that 00_scope.md rule R9 marks "argument". The word width is held as `W - 1`, so that the
`W = 0` that 93_implementation_defined.md U24 excludes cannot be written. -/
structure Params where
  /-- `W - 1`: the index of the last byte of a request word. -/
  lastByte      : Nat
  parity        : Parity
  rxInitDivisor : Divisor
  txInitDivisor : Divisor
  /-- `UART_BASE`, the bus address of the register file's offset 0. No meaning reads it: the fabric turns a bus address
  into an offset (00_scope.md rule R6 (a), 30_encoding.md rule R61). -/
  uartBase      : Nat
  layout        : Layout
  deriving DecidableEq, Repr

/-- `W`, the bytes of a request word (00_scope.md rule R9). -/
def Params.W (P : Params) : Nat := P.lastByte + 1

namespace Config

/-- The offsets of 20_memory.md rule R51. -/
def layout : Layout :=
  { config := 0x000, phyConfig := 0x004, status := 0x008, data := 0x00C, txBlock := 0x200 }

/-- The value this hardware takes for every build parameter (00_scope.md rule R9): `W = 4`, no parity, both divisors 417
at reset, the default offsets. R9 gives `UART_BASE` no default: the 0 is the model's (DESIGN CHOICE,
notes/assumptions/4.md). -/
def thisHardware : Params :=
  { lastByte := 3, parity := .none, rxInitDivisor := 417, txInitDivisor := 417, uartBase := 0,
    layout := layout }

/-- The clock frequency of the source's example (00_scope.md rule R9, `CLK_HZ`), which no rule of the hardware reads. -/
def clkHz : Nat := 48000000

/-- The opcode byte of the command phase (00_scope.md rule R9, `CMD_READ`). -/
def cmdRead : Byte := 0x03

/-- The payload of receive-mode and deselect offers (00_scope.md rule R9, `DUMMY_PAYLOAD`). -/
def dummyPayload : Byte := 0x00

/-- The smallest RX divisor the line layer promises anything for (00_scope.md rule R9, `RX_MIN_DIVISOR`). -/
def rxMinDivisor : Divisor := 3

/-- The smallest TX divisor the line layer promises anything for (00_scope.md rule R9, `TX_MIN_DIVISOR`). -/
def txMinDivisor : Divisor := 1

/-- FREE VALUE: the byte the flash behind the lane peer holds at an address, and what it returns past its top address.
The flash is outside the hardware and its contents are "any value" (93_implementation_defined.md U9), so this constant
has no body (notes/assumptions/10.md). -/
opaque flashByte : Nat → Byte

end Config
end Sys2Proof
end

