-- ==== Sys2Proof/Syntax.lean ====
section
/-! DEFINITION. The operations of spec/opcode_table.json, one constructor a row (00_scope.md rule R8 says what an
"instruction" is on this hardware), and the raw form in which an operation reaches the hardware's ports. -/

namespace Sys2Proof

/-- The eight registers of the Framing Engine (10_state.md rules R14 to R21). -/
inductive Reg
  | rxConfig | rxPhyConfig | rxStatus | rxData | txConfig | txPhyConfig | txStatus | txData
  deriving DecidableEq, Repr

/-- The formats of the operation table (30_encoding.md rules R60 and R70). -/
inductive Format
  | csr | line | lane | laneIn | req | flashCmd
  deriving DecidableEq, Repr

/-- An operation as it stands on a port: its format, the bits the table encodes, and the operand beside them.
The operand is `wdata` for a register operation, the address for a request, and for a lane item its place in the
sequence of 30_encoding.md rule R68 (rows of one mode are told apart by position, not by bits, rule R70); other formats
carry none. -/
structure RawOp where
  format  : Format
  bits    : BitVec 16
  operand : BusWord
  deriving DecidableEq, Repr

/-- Why a raw operation matches no row of the table. -/
inductive Reject
  /-- A bit above the format's fixed length is set (30_encoding.md rules R60, R74; a frame's length is that of the build's
  `PARITY`): the port has no wire for it. Safe: the spec has no such operation. -/
  | bitsAboveFormat
  /-- The offset is none of the eight (20_memory.md rule R45, 43_uart_registers.md rule R143). Safe: the spec has a
  model refuse it. -/
  | csrOffsetUndefined
  /-- Lane mode 3, which is never produced (30_encoding.md rule R65). Safe. -/
  | laneModeThree
  /-- A `TX_SINGLE` item at a position that has no such item (30_encoding.md rule R68). Safe. -/
  | lanePosition
  /-- A receive offer or deselect item whose payload is not `DUMMY_PAYLOAD` (30_encoding.md rules R65, R68): the Sequencer
  never emits it. Safe. -/
  | lanePayload
  /-- A flash opcode the table does not list (30_encoding.md rule R71). Safe. -/
  | flashOpcodeUnlisted
  deriving DecidableEq, Repr

/-- A data byte between the start and stop levels of its frame. The frames of 30_encoding.md rules R63 and R64 start with
0 and stop with 1; a frame with other levels has a behaviour of its own, a decode error (rule R72). -/
structure FramedByte where
  start : Bool
  byte  : Byte
  stop  : Bool
  deriving DecidableEq, Repr

/-- A byte as the table's rows frame it: start 0 and stop 1 (30_encoding.md rules R63, R64). -/
def FramedByte.ofByte (b : Byte) : FramedByte := { start := false, byte := b, stop := true }

/-- The operations of the hardware, one constructor a row of spec/opcode_table.json, in the table's order. -/
inductive Instr
  | rdRxConfig
  | wrRxConfig (wdata : BusWord)
  | rdRxPhyConfig
  | wrRxPhyConfig (wdata : BusWord)
  | rdRxStatus
  | wrRxStatus (wdata : BusWord)
  | rdRxData
  | wrRxData (wdata : BusWord)
  | rdTxConfig
  | wrTxConfig (wdata : BusWord)
  | rdTxPhyConfig
  | wrTxPhyConfig (wdata : BusWord)
  | rdTxStatus
  | wrTxStatus (wdata : BusWord)
  | rdTxData
  | wrTxData (wdata : BusWord)
  | seqCmdRead
  | seqAddr2 (payload : Byte)
  | seqAddr1 (payload : Byte)
  | seqAddr0 (payload : Byte)
  | seqRxOffer
  | seqDeselect
  | seqRxByte (payload : Byte)
  | uartFrame8N1 (data : FramedByte)
  | uartFrame8P1 (data : FramedByte) (parityBit : Bool)
  | reqRead (address : FlashAddr)
  | reqWrite (address : FlashAddr)
  | reqNone (isRead : Bool) (address : FlashAddr)
  | flashRead
  | flashUnused0B
  | flashUnused3B
  | flashUnused6B
  | flashUnusedBB
  | flashUnusedEB
  deriving DecidableEq, Repr

end Sys2Proof
end

