-- ==== Sys2Proof/WellFormed.lean ====
section
/-! DEFINITION. Which operations are well formed for a set of build parameters. Operand widths are in the constructors'
types; what is left to check is whether a frame's format is the one the `PARITY` parameter selects (30_encoding.md rules
R63, R64, R74). -/

namespace Sys2Proof

/-- An operation is well formed for a build when it exists in it: the ten-bit frame without parity, the eleven-bit frame
with parity (30_encoding.md rules R63, R64); every other row in every build. -/
def Instr.wf (P : Params) : Instr → Bool
  | .rdRxConfig | .wrRxConfig _ | .rdRxPhyConfig | .wrRxPhyConfig _ => true
  | .rdRxStatus | .wrRxStatus _ | .rdRxData | .wrRxData _ => true
  | .rdTxConfig | .wrTxConfig _ | .rdTxPhyConfig | .wrTxPhyConfig _ => true
  | .rdTxStatus | .wrTxStatus _ | .rdTxData | .wrTxData _ => true
  | .seqCmdRead | .seqAddr2 _ | .seqAddr1 _ | .seqAddr0 _ | .seqRxOffer | .seqDeselect | .seqRxByte _ => true
  | .uartFrame8N1 _ => P.parity == .none
  | .uartFrame8P1 _ _ => P.parity != .none
  | .reqRead _ | .reqWrite _ | .reqNone _ _ => true
  | .flashRead | .flashUnused0B | .flashUnused3B | .flashUnused6B | .flashUnusedBB | .flashUnusedEB => true

/-- The operation has the bits its row of spec/opcode_table.json fixes: of a line frame start 0 and stop 1, where the
hardware also takes other levels (30_encoding.md rule R72); every other operation has no other form. -/
def Instr.hasRowBits : Instr → Bool
  | .rdRxConfig | .wrRxConfig _ | .rdRxPhyConfig | .wrRxPhyConfig _ => true
  | .rdRxStatus | .wrRxStatus _ | .rdRxData | .wrRxData _ => true
  | .rdTxConfig | .wrTxConfig _ | .rdTxPhyConfig | .wrTxPhyConfig _ => true
  | .rdTxStatus | .wrTxStatus _ | .rdTxData | .wrTxData _ => true
  | .seqCmdRead | .seqAddr2 _ | .seqAddr1 _ | .seqAddr0 _ | .seqRxOffer | .seqDeselect | .seqRxByte _ => true
  | .uartFrame8N1 f => f == .ofByte f.byte
  | .uartFrame8P1 f _ => f == .ofByte f.byte
  | .reqRead _ | .reqWrite _ | .reqNone _ _ => true
  | .flashRead | .flashUnused0B | .flashUnused3B | .flashUnused6B | .flashUnusedBB | .flashUnusedEB => true

end Sys2Proof
end

