-- ==== Sys2Proof/Decode.lean ====
section
/-! DEFINITION. From the bits on a port to an operation, total and rejecting by name, and back. The encodings are those of
30_encoding.md rules R61 to R71 and of spec/opcode_table.json. -/

namespace Sys2Proof

/-! ### The register map -/

/-- The offset of a register: RX block first, TX block `txBlock` above it (20_memory.md rule R51). -/
def Layout.offset (L : Layout) : Reg → RegOffset
  | .rxConfig    => L.config
  | .rxPhyConfig => L.phyConfig
  | .rxStatus    => L.status
  | .rxData      => L.data
  | .txConfig    => L.txBlock + L.config
  | .txPhyConfig => L.txBlock + L.phyConfig
  | .txStatus    => L.txBlock + L.status
  | .txData      => L.txBlock + L.data

/-- The bus address of a register (00_scope.md rule R9, `UART_BASE`; 20_memory.md rule R51). -/
def Params.busAddress (P : Params) (r : Reg) : Nat := P.uartBase + (P.layout.offset r).toNat

/-- The eight registers, RX block first. -/
def Reg.all : List Reg :=
  [.rxConfig, .rxPhyConfig, .rxStatus, .rxData, .txConfig, .txPhyConfig, .txStatus, .txData]

/-- The eight registers stand at eight different offsets (20_memory.md rule R45). -/
abbrev Layout.wf (L : Layout) : Prop := (Reg.all.map L.offset).Nodup

/-- A build is well formed when its register layout is. (`W >= 1` holds by construction.) -/
abbrev Params.wf (P : Params) : Prop := P.layout.wf

/-- The register that stands exactly at an offset, if one does (20_memory.md rule R45). -/
def Layout.regAt (L : Layout) (off : RegOffset) : Option Reg :=
  Reg.all.find? fun r => L.offset r == off

/-! ### Format CSR (30_encoding.md rules R61, R70) -/

/-- The selector `{we, off[9:0]}`. -/
def csrSelector (we : Bool) (off : RegOffset) : BitVec 16 :=
  (BitVec.ofBool we ++ off).setWidth 16

/-- The operation a direction and a register make; `wdata` is ignored on a read. -/
def csrInstr (we : Bool) (r : Reg) (wdata : BusWord) : Instr :=
  match we, r with
  | false, .rxConfig    => .rdRxConfig
  | true,  .rxConfig    => .wrRxConfig wdata
  | false, .rxPhyConfig => .rdRxPhyConfig
  | true,  .rxPhyConfig => .wrRxPhyConfig wdata
  | false, .rxStatus    => .rdRxStatus
  | true,  .rxStatus    => .wrRxStatus wdata
  | false, .rxData      => .rdRxData
  | true,  .rxData      => .wrRxData wdata
  | false, .txConfig    => .rdTxConfig
  | true,  .txConfig    => .wrTxConfig wdata
  | false, .txPhyConfig => .rdTxPhyConfig
  | true,  .txPhyConfig => .wrTxPhyConfig wdata
  | false, .txStatus    => .rdTxStatus
  | true,  .txStatus    => .wrTxStatus wdata
  | false, .txData      => .rdTxData
  | true,  .txData      => .wrTxData wdata

def decodeCsr (L : Layout) (bits : BitVec 16) (wdata : BusWord) : Except Reject Instr :=
  if bits.extractLsb' 11 5 ≠ 0 then .error .bitsAboveFormat
  else
    match L.regAt (bits.extractLsb' 0 10) with
    | none   => .error .csrOffsetUndefined
    | some r => .ok (csrInstr (bits.getLsbD 10) r wdata)

/-! ### Format LINE (30_encoding.md rules R60, R63, R64, R72, R74) -/

/-- The levels of a frame, whatever start and stop are (30_encoding.md rule R72). A build has frames of one length: ten
bits without parity, eleven with (rules R60, R74). -/
def decodeLine (par : Parity) (bits : BitVec 16) : Except Reject Instr :=
  match par with
  | .none =>
    if bits.extractLsb' 10 6 ≠ 0 then .error .bitsAboveFormat
    else .ok (.uartFrame8N1 { start := bits.getLsbD 0, byte := bits.extractLsb' 1 8, stop := bits.getLsbD 9 })
  | _ =>
    if bits.extractLsb' 11 5 ≠ 0 then .error .bitsAboveFormat
    else .ok (.uartFrame8P1 { start := bits.getLsbD 0, byte := bits.extractLsb' 1 8, stop := bits.getLsbD 10 }
      (bits.getLsbD 9))

/-! ### Formats LANE and LANEIN (30_encoding.md rules R65, R66, R68) -/

/-- An item in mode `TX_SINGLE`: its position says which of the four it is (30_encoding.md rule R68). -/
def decodeTxSingle (payload : Byte) (position : Nat) : Except Reject Instr :=
  match position with
  | 0 => if payload = Config.cmdRead then .ok .seqCmdRead else .error .lanePosition
  | 1 => .ok (.seqAddr2 payload)
  | 2 => .ok (.seqAddr1 payload)
  | 3 => .ok (.seqAddr0 payload)
  | _ => .error .lanePosition

/-- An item by its mode (30_encoding.md rule R65). DESIGN CHOICE (notes/assumptions/30.md): the rows of modes `RX_DATA` and
`DESELECT`, one each, are told by their bits alone, whatever position stands beside them; rule R70 leaves open whether
their position is looked at. -/
def decodeLane (bits : BitVec 16) (position : BusWord) : Except Reject Instr :=
  if bits.extractLsb' 10 6 ≠ 0 then .error .bitsAboveFormat
  else
    let mode : BitVec 2 := bits.extractLsb' 8 2
    let payload : Byte := bits.extractLsb' 0 8
    if mode = 1 then decodeTxSingle payload position.toNat
    else if mode = 3 then .error .laneModeThree
    else if payload ≠ Config.dummyPayload then .error .lanePayload
    else if mode = 2 then .ok .seqRxOffer
    else .ok .seqDeselect

def decodeLaneIn (bits : BitVec 16) : Except Reject Instr :=
  if bits.extractLsb' 8 8 ≠ 0 then .error .bitsAboveFormat
  else .ok (.seqRxByte (bits.extractLsb' 0 8))

/-! ### Formats REQ and FLASHCMD (30_encoding.md rules R67, R70, R71) -/

/-- The two bits are `{req_valid, req_is_read}`; only bits 23:0 of the address beside them reach the hardware
(20_memory.md rule R52). -/
def decodeReq (bits : BitVec 16) (address : BusWord) : Except Reject Instr :=
  let a : FlashAddr := address.extractLsb' 0 24
  if bits.extractLsb' 2 14 ≠ 0 then .error .bitsAboveFormat
  else if bits.getLsbD 1 then
    if bits.getLsbD 0 then .ok (.reqRead a) else .ok (.reqWrite a)
  else .ok (.reqNone (bits.getLsbD 0) a)

def decodeFlashCmd (bits : BitVec 16) : Except Reject Instr :=
  if bits.extractLsb' 8 8 ≠ 0 then .error .bitsAboveFormat
  else
    let opcode : Byte := bits.extractLsb' 0 8
    if opcode = Config.cmdRead then .ok .flashRead
    else if opcode = 0x0B then .ok .flashUnused0B
    else if opcode = 0x3B then .ok .flashUnused3B
    else if opcode = 0x6B then .ok .flashUnused6B
    else if opcode = 0xBB then .ok .flashUnusedBB
    else if opcode = 0xEB then .ok .flashUnusedEB
    else .error .flashOpcodeUnlisted

/-- The operation a raw operation stands for in a build, or why it stands for none. -/
def decode (P : Params) (r : RawOp) : Except Reject Instr :=
  match r.format with
  | .csr      => decodeCsr P.layout r.bits r.operand
  | .line     => decodeLine P.parity r.bits
  | .lane     => decodeLane r.bits r.operand
  | .laneIn   => decodeLaneIn r.bits
  | .req      => decodeReq r.bits r.operand
  | .flashCmd => decodeFlashCmd r.bits

/-! ### The encoder -/

/-- The bits the table gives a format, the widest row's where rows differ (spec/opcode_table.json). -/
def Format.width : Format → Nat
  | .csr      => 11
  | .line     => 11
  | .lane     => 10
  | .laneIn   => 8
  | .req      => 2
  | .flashCmd => 8

def encodeCsr (L : Layout) (we : Bool) (r : Reg) (wdata : BusWord) : RawOp :=
  { format := .csr, bits := csrSelector we (L.offset r), operand := wdata }

/-- `{mode, payload}` with its position in the sequence of 30_encoding.md rule R68. -/
def encodeLane (mode : BitVec 2) (payload : Byte) (position : BusWord) : RawOp :=
  { format := .lane, bits := (mode ++ payload).setWidth 16, operand := position }

def encodeReq (valid isRead : Bool) (address : FlashAddr) : RawOp :=
  { format := .req, bits := (BitVec.ofBool valid ++ BitVec.ofBool isRead).setWidth 16, operand := address.setWidth 32 }

def encodeFlashCmd (opcode : Byte) : RawOp :=
  { format := .flashCmd, bits := opcode.setWidth 16, operand := 0 }

/-- The raw operation of an instruction, from the tables of 30_encoding.md. -/
def encode (P : Params) : Instr → RawOp
  | .rdRxConfig      => encodeCsr P.layout false .rxConfig 0
  | .wrRxConfig w    => encodeCsr P.layout true .rxConfig w
  | .rdRxPhyConfig   => encodeCsr P.layout false .rxPhyConfig 0
  | .wrRxPhyConfig w => encodeCsr P.layout true .rxPhyConfig w
  | .rdRxStatus      => encodeCsr P.layout false .rxStatus 0
  | .wrRxStatus w    => encodeCsr P.layout true .rxStatus w
  | .rdRxData        => encodeCsr P.layout false .rxData 0
  | .wrRxData w      => encodeCsr P.layout true .rxData w
  | .rdTxConfig      => encodeCsr P.layout false .txConfig 0
  | .wrTxConfig w    => encodeCsr P.layout true .txConfig w
  | .rdTxPhyConfig   => encodeCsr P.layout false .txPhyConfig 0
  | .wrTxPhyConfig w => encodeCsr P.layout true .txPhyConfig w
  | .rdTxStatus      => encodeCsr P.layout false .txStatus 0
  | .wrTxStatus w    => encodeCsr P.layout true .txStatus w
  | .rdTxData        => encodeCsr P.layout false .txData 0
  | .wrTxData w      => encodeCsr P.layout true .txData w
  | .seqCmdRead      => encodeLane 1 Config.cmdRead 0
  | .seqAddr2 b      => encodeLane 1 b 1
  | .seqAddr1 b      => encodeLane 1 b 2
  | .seqAddr0 b      => encodeLane 1 b 3
  | .seqRxOffer      => encodeLane 2 Config.dummyPayload 4
  | .seqDeselect     => encodeLane 0 Config.dummyPayload (BitVec.ofNat 32 (4 + P.W))
  | .seqRxByte b     => { format := .laneIn, bits := b.setWidth 16, operand := 0 }
  | .uartFrame8N1 f =>
    { format := .line, bits := (BitVec.ofBool f.stop ++ f.byte ++ BitVec.ofBool f.start).setWidth 16, operand := 0 }
  | .uartFrame8P1 f p =>
    { format := .line
      bits := (BitVec.ofBool f.stop ++ BitVec.ofBool p ++ f.byte ++ BitVec.ofBool f.start).setWidth 16
      operand := 0 }
  | .reqRead a       => encodeReq true true a
  | .reqWrite a      => encodeReq true false a
  | .reqNone r a     => encodeReq false r a
  | .flashRead       => encodeFlashCmd Config.cmdRead
  | .flashUnused0B   => encodeFlashCmd 0x0B
  | .flashUnused3B   => encodeFlashCmd 0x3B
  | .flashUnused6B   => encodeFlashCmd 0x6B
  | .flashUnusedBB   => encodeFlashCmd 0xBB
  | .flashUnusedEB   => encodeFlashCmd 0xEB

/-! ### A word without its format

The formats belong to different ports, so one pattern of bits can stand for a row of each of several formats
(notes/assumptions/8.md). Where only a width and a number are given, the formats of that width are tried in a fixed
order. -/

/-- The formats tried for a word of a given width, in the order they are tried. -/
def tableFormats (nbits : Nat) : List Format :=
  if nbits = 2 then [.req]
  else if nbits ≤ 8 then [.req, .flashCmd, .laneIn]
  else if nbits = 10 then [.lane, .line]
  else if nbits = 11 then [.csr, .line]
  else [.csr, .lane, .line]

/-- A number as a raw operation of a format. A `TX_SINGLE` item other than the command byte is placed at position 1, the
first address byte. -/
def tableRaw (w : Nat) (f : Format) : RawOp :=
  { format := f, bits := BitVec.ofNat 16 w, operand := if f = .lane ∧ w / 256 = 1 ∧ w ≠ 0x103 then 1 else 0 }

/-- Whether a raw operation is a row of the table, with the bits the row fixes. -/
def decodes (P : Params) (r : RawOp) : Bool :=
  match decode P r with
  | .ok i    => i.hasRowBits
  | .error _ => false

/-- What a bare word that is a row of no format tried is read as: with ten bits a frame (30_encoding.md rule R72), else a
register operation. -/
def fallbackFormat (nbits : Nat) : Format := if nbits = 10 then .line else .csr

/-- The raw operation a bare word is read as: the first format tried that has it as a row, else the fallback. -/
def tableOp (P : Params) (nbits w : Nat) : RawOp :=
  (((tableFormats nbits).map (tableRaw w)).find? (decodes P)).getD (tableRaw w (fallbackFormat nbits))

/-- The build a bare word is read in: the given one, but for a word that is a row of none of its formats and is the
eleven-bit frame of a build with parity, which no build without parity has (30_encoding.md rules R64, R74;
notes/assumptions/8.md). -/
def tableBuild (P : Params) (nbits w : Nat) : Params :=
  let withParity : Params := { P with parity := .even }
  if ((tableFormats nbits).map (tableRaw w)).any (decodes P) then P
  else if .line ∈ tableFormats nbits ∧ decodes withParity (tableRaw w .line) then withParity
  else P

/-- The instruction the decoder reads from a bare word of `nbits` bits, in this hardware's build where that has it. -/
def decodeTableWord (nbits w : Nat) : Option Instr :=
  let P := tableBuild Config.thisHardware nbits w
  if w < 65536 then (decode P (tableOp P nbits w)).toOption else none

end Sys2Proof
end

