-- ==== Sys2Proof/Machine/State.lean ====
section
/-! DEFINITION. The state of the hardware (10_state.md rules R10, R13, R24 to R27), the environment a model of a whole run
carries beside it (rule R28: the inputs, the lane peer, the level history of the line), the outputs of the last tick, the
reset state (rule R29), and the reasons a step can stop. -/

namespace Sys2Proof.Machine

/-- `rx_phase` and `tx_phase` (10_state.md rule R12). -/
inductive LinePhase
  | idle | busy
  deriving DecidableEq, Repr

/-- `seq_phase` (10_state.md rule R12). -/
inductive SeqPhase
  | idle | sendAddress | receiveData | deselect
  deriving DecidableEq, Repr

/-- The mode tag of an outbound lane item (30_encoding.md rule R65). -/
inductive LaneMode
  | txSingle | rxData | deselect
  deriving DecidableEq, Repr

/-- An outbound Sequencer item (30_encoding.md rule R65). -/
structure LaneItem where
  mode    : LaneMode
  payload : Byte
  deriving DecidableEq, Repr

/-- The event of a tick of the RX engine (41_uart_rx.md rule R97). -/
inductive RxEvent
  | none
  | arrival (b : Byte)
  | error
  deriving DecidableEq, Repr

/-- The receive direction (10_state.md rules R13 and R24). `shreg` has the width of the longest frame; its top bit is 0
when the frame has ten bits (notes/assumptions/20.md). -/
structure RxDir where
  enable   : Bool
  divisor  : Divisor
  res      : Byte
  ready    : Bool
  overflow : Bool
  error    : Bool
  buf      : Byte
  phase    : LinePhase
  timer    : BitVec 24
  bitno    : BitVec 4
  shreg    : BitVec 11
  deriving DecidableEq, Repr

/-- The transmit direction (10_state.md rules R13 and R25). `shreg` has the width of the longest frame less its start
bit; its top bit is 0 when the frame has ten bits (notes/assumptions/20.md). -/
structure TxDir where
  enable  : Bool
  divisor : Divisor
  res     : Byte
  phase   : LinePhase
  timer   : BitVec 24
  bitno   : BitVec 4
  shreg   : BitVec 10
  line    : Bool
  deriving DecidableEq, Repr

/-- The Sequencer (10_state.md rules R26 and R27). `result` is the `W` bytes of the result word, byte 0 first. -/
structure Sequencer where
  phase  : SeqPhase
  aIdx   : BitVec 2
  oCnt   : Nat
  iCnt   : Nat
  result : List Byte
  ack    : Bool
  deriving DecidableEq, Repr

/-- The levels on the input ports (10_state.md rule R10, 60_exceptions.md rule R183), all but the register operation,
which is an instruction. `loopback` ties `rx_line` to `tx_line` (10_state.md rule R28); `inFromPeer` takes the inbound
byte from the lane peer of `Peer` instead of from `inPayload`. -/
structure Ports where
  rst        : Bool
  rxLine     : Bool
  loopback   : Bool
  reqValid   : Bool
  reqIsRead  : Bool
  reqAddress : FlashAddr
  outReady   : Bool
  inValid    : Bool
  inPayload  : Byte
  inFromPeer : Bool
  deriving DecidableEq, Repr

/-- The lane peer of 44_qspi_sequencer.md rule R166, outside the hardware (10_state.md rule R28): the items it has
accepted, newest first; the inbound bytes it still owes, oldest first; the single-lane bytes accepted since the last
deselect, oldest first; the receive offers accepted since then. -/
structure Peer where
  taken  : List LaneItem
  owed   : List Byte
  sent   : List Byte
  served : Nat
  deriving DecidableEq, Repr

/-- The outputs driven in the last tick (00_scope.md rule R5, 44_qspi_sequencer.md rule R150); `rdata` is present when a
read was presented, `event` is the RX engine's event of that tick. -/
structure TickOut where
  rdata      : Option BusWord
  event      : RxEvent
  outValid   : Bool
  outItem    : LaneItem
  inReady    : Bool
  ack        : Bool
  data       : List Byte
  txLine     : Bool
  deriving DecidableEq, Repr

/-- What the environment presents for one step: the port levels and one operation (60_exceptions.md rule R183). -/
structure Slot where
  ports : Ports
  op    : RawOp
  deriving DecidableEq, Repr

/-- The whole machine state. `cfg` holds the build parameters, which no step changes (notes/assumptions/4.md); `rx`,
`tx` and `seq` are the hardware; the rest is the environment of 10_state.md rule R28 and the outputs of the last tick. -/
structure State where
  cfg      : Params
  rx       : RxDir
  tx       : TxDir
  seq      : Sequencer
  ports    : Ports
  peer     : Peer
  lineSeen : List Bool
  out      : TickOut
  schedule : List Slot
  deriving DecidableEq, Repr

/-- The hardware raises no exception and never halts (60_exceptions.md rule R170), so there is no fault. -/
inductive Fault
  deriving DecidableEq, Repr

/-- Why a step answers no next state. -/
inductive Refusal
  /-- Raised by `exec` for an instruction that has no meaning yet. Safe: the run says nothing. -/
  | notModelled (mnemonic : String)
  /-- Raised by `step` when the operation presented is none of the table's: an undefined register offset (20_memory.md rule
  R45, 43_uart_registers.md rule R143), a lane item that is never produced (30_encoding.md rules R65, R68, R72), an unlisted
  flash opcode (rule R71), bits beyond a format's length (rule R60). Safe: the spec has a model refuse the first, and gives
  the others no effect on this hardware. -/
  | undecodable (why : Reject)
  /-- Raised by the meanings of the flash opcodes the Sequencer never emits (30_encoding.md rule R71,
  93_implementation_defined.md U7). Safe: the spec gives them no semantics and says a model has no operation that
  sends them. -/
  | flashOpcodeNeverEmitted (opcode : Byte)
  deriving DecidableEq, Repr

/-- What a step or a meaning answers. -/
abbrev Result := Host.Outcome State Fault Refusal

/-! ### Reset (10_state.md rule R29) -/

def RxDir.reset (P : Params) : RxDir :=
  { enable := false, divisor := P.rxInitDivisor, res := 0, ready := false, overflow := false, error := false, buf := 0,
    phase := .idle, timer := 0, bitno := 0, shreg := 0 }

def TxDir.reset (P : Params) : TxDir :=
  { enable := false, divisor := P.txInitDivisor, res := 0, phase := .idle, timer := 0, bitno := 0, shreg := 0,
    line := true }

def Sequencer.reset (P : Params) : Sequencer :=
  { phase := .idle, aIdx := 0, oCnt := 0, iCnt := 0, result := List.replicate P.W 0, ack := false }

/-- The quiet environment of 70_reset_and_hazards.md rule R209: no reset, the line at rest, no request, and a lane peer
that neither takes nor gives. -/
def Ports.quiet : Ports :=
  { rst := false, rxLine := true, loopback := false, reqValid := false, reqIsRead := false, reqAddress := 0,
    outReady := false, inValid := false, inPayload := 0, inFromPeer := false }

/-- A lane peer that has accepted nothing and owes nothing (70_reset_and_hazards.md rule R195). -/
def Peer.fresh : Peer := { taken := [], owed := [], sent := [], served := 0 }

/-- The machine of a build right after reset, in a quiet environment. -/
def State.resetOf (P : Params) : State :=
  { cfg := P, rx := RxDir.reset P, tx := TxDir.reset P, seq := Sequencer.reset P, ports := Ports.quiet,
    peer := Peer.fresh, lineSeen := [],
    out := { rdata := none, event := .none, outValid := false,
             outItem := { mode := .txSingle, payload := Config.cmdRead },
             inReady := false, ack := false, data := List.replicate P.W 0, txLine := true },
    schedule := [] }

/-- This hardware right after reset. -/
def State.reset : State := State.resetOf Config.thisHardware

end Sys2Proof.Machine
end

