-- ==== Sys2Proof/Machine/Operands.lean ====
section
/-! DEFINITION. How each operand is taken from or put into its word (30_encoding.md rule R69), and the line frame
(30_encoding.md rules R63, R64). -/

namespace Sys2Proof.Machine

/-! ### Operands of the register writes (30_encoding.md rule R69 (a) to (d)) -/

/-- The `enable` operand of a Config write. -/
def enableOperand (w : BusWord) : Bool := w.getLsbD 0

/-- The `divisor` operand of a PhyConfig write. -/
def divisorOperand (w : BusWord) : Divisor := w.extractLsb' 0 24

/-- The reserved operand of a PhyConfig write. -/
def reservedOperand (w : BusWord) : Byte := w.extractLsb' 24 8

/-- The `clr_overflow` operand of an RxStatus write. -/
def clrOverflowOperand (w : BusWord) : Bool := w.getLsbD 1

/-- The `clr_error` operand of an RxStatus write. -/
def clrErrorOperand (w : BusWord) : Bool := w.getLsbD 2

/-- The byte operand of a TxData write. -/
def byteOperand (w : BusWord) : Byte := w.extractLsb' 0 8

/-! ### Words the register reads return (30_encoding.md rule R69 (e)) -/

/-- A one-bit field read back in bit 0, the rest zero. -/
def bitWord (b : Bool) : BusWord := (BitVec.ofBool b).setWidth 32

/-- `{res, divisor}`. -/
def phyWord (res : Byte) (divisor : Divisor) : BusWord := res ++ divisor

/-- `zext_32({00000, error, overflow, ready})`. -/
def rxStatusWord (error overflow ready : Bool) : BusWord :=
  (BitVec.ofBool error ++ BitVec.ofBool overflow ++ BitVec.ofBool ready).setWidth 32

/-- `zext_32` of a data byte. -/
def byteWord (b : Byte) : BusWord := b.setWidth 32

/-! ### Bytes of the address and of the result word (30_encoding.md rule R69 (g), (h)) -/

/-- Address byte `k`: bits `8k+7 .. 8k` of the address (20_memory.md rule R40). -/
def addressByte (a : FlashAddr) (k : Nat) : Byte := a.extractLsb' (8 * k) 8

/-- The result word as a number, byte 0 least significant (20_memory.md rule R41). -/
def wordOfBytes : List Byte → Nat
  | []      => 0
  | b :: bs => b.toNat + 256 * wordOfBytes bs

/-! ### Parity (30_encoding.md rule R69 (f)) -/

/-- The number of 1 bits of a byte. -/
def popcount (b : Byte) : Nat :=
  ((List.range 8).map fun i => (b.getLsbD i).toNat).sum

/-- The parity bit of a byte. Without parity there is no such bit and the value is not used. -/
def parityBit : Parity → Byte → Bool
  | .none,  _ => false
  | .even,  b => popcount b % 2 == 1
  | .odd,   b => popcount b % 2 == 0
  | .mark,  _ => true
  | .space, _ => false

/-! ### The frame on the line (30_encoding.md rules R63, R64) -/

/-- `N`, the bits of a line frame (00_scope.md rule R9). -/
def frameLength : Parity → Nat
  | .none => 10
  | _     => 11

/-- `N - 1` as a bit counter holds it. -/
def lastBitNo (par : Parity) : BitVec 4 := BitVec.ofNat 4 (frameLength par - 1)

/-- The eight data levels of a byte in time order, least significant first (20_memory.md rule R43). -/
def dataLevels (b : Byte) : List Bool := (List.range 8).map fun i => b.getLsbD i

/-- The ten levels of a frame without parity, in time order (30_encoding.md rule R63): start, data, stop. -/
def levels8N1 (f : FramedByte) : List Bool := f.start :: dataLevels f.byte ++ [f.stop]

/-- The eleven levels of a frame with parity bit `p`, in time order (30_encoding.md rule R64). -/
def levels8P1 (f : FramedByte) (p : Bool) : List Bool := f.start :: dataLevels f.byte ++ [p, f.stop]

/-- The levels the transmitter sends for a byte (42_uart_tx.md rule R113). -/
def frameLevels (par : Parity) (b : Byte) : List Bool :=
  match par with
  | .none => levels8N1 (.ofByte b)
  | _     => levels8P1 (.ofByte b) (parityBit par b)

/-- The shift register of an accepted byte: `{1, b}`, or `{1, p, b}` with parity (42_uart_tx.md rule R112). -/
def loadShift (par : Parity) (b : Byte) : BitVec 10 :=
  match par with
  | .none => ((1 : BitVec 1) ++ b).setWidth 10
  | _     => (1 : BitVec 1) ++ BitVec.ofBool (parityBit par b) ++ b

/-- `{1, tx_shreg[N-2:1]}` (42_uart_tx.md rule R116). -/
def txShiftOut (par : Parity) (s : BitVec 10) : BitVec 10 :=
  match par with
  | .none => ((1 : BitVec 1) ++ s.extractLsb' 1 8).setWidth 10
  | _     => (1 : BitVec 1) ++ s.extractLsb' 1 9

/-- `{rx_line, rx_shreg[N-1:1]}` (41_uart_rx.md rule R95). -/
def rxShiftIn (par : Parity) (level : Bool) (s : BitVec 11) : BitVec 11 :=
  match par with
  | .none => (BitVec.ofBool level ++ s.extractLsb' 1 9).setWidth 11
  | _     => BitVec.ofBool level ++ s.extractLsb' 1 10

/-- The data byte of a completed sample register, `b = s[8:1]` (30_encoding.md rule R69 (i)). -/
def sampledByte (s : BitVec 11) : Byte := s.extractLsb' 1 8

end Sys2Proof.Machine
end

