-- ==== Sys2Proof/Machine/Flags.lean ====
section
/-! DEFINITION. The flags: the derived `tx_ready`, the frame and parity checks, the sticky-flag law, and the same-tick
priorities of 60_exceptions.md rules R172 to R176. "Taking an exception" is setting a sticky flag and nothing more
(rule R178); "returning" from it is the write-one-to-clear (rule R179). -/

namespace Sys2Proof.Machine

/-- `tx_ready = tx_enable & (tx_phase == IDLE)` (42_uart_tx.md rule R111). -/
def txReady (t : TxDir) : Bool := t.enable && t.phase == .idle

/-! ### The frame check (41_uart_rx.md rules R96, R98) -/

/-- The parity check of a completed sample register. Without parity it always passes. -/
def parityOk (par : Parity) (s : BitVec 11) : Bool :=
  par == .none || s.getLsbD 9 == parityBit par (sampledByte s)

/-- A frame is good when `start = 0`, `stop = 1` and the parity check passes. -/
def frameGood (par : Parity) (s : BitVec 11) : Bool :=
  !s.getLsbD 0 && s.getLsbD (frameLength par - 1) && parityOk par s

/-- The event of a completed frame. -/
def judgeFrame (par : Parity) (s : BitVec 11) : RxEvent :=
  if frameGood par s then .arrival (sampledByte s) else .error

/-! ### Events that bear on a flag -/

/-- The event is a byte arrival. -/
def RxEvent.isArrival : RxEvent → Bool
  | .arrival _ => true
  | .none      => false
  | .error     => false

/-- The event is a decode error. -/
def RxEvent.isError : RxEvent → Bool
  | .error     => true
  | .none      => false
  | .arrival _ => false

/-! ### The sticky-flag law (43_uart_registers.md rule R131) -/

/-- A sticky flag after a tick, for a bit `clear` written to it and an event `set` of its kind in the same tick: the set
wins (60_exceptions.md rule R176), a written 1 clears, anything else keeps. -/
def stickyNext (flag clear set : Bool) : Bool := set || (flag && !clear)

/-- "Trap entry" for an overflow (60_exceptions.md rule R178, 41_uart_rx.md rule R101): the flag is set, nothing else. -/
def raiseOverflow (r : RxDir) : RxDir := { r with overflow := true }

/-- "Trap entry" for a decode error (60_exceptions.md rule R178, 41_uart_rx.md rule R102): the flag is set, nothing
else. -/
def raiseError (r : RxDir) : RxDir := { r with error := true }

/-- "Trap return" (60_exceptions.md rule R179): the write-one-to-clear of 43_uart_registers.md rule R132, each flag by its
own bit, where an event of the flag's kind in the same tick keeps it set. -/
def clearSticky (clrOverflow clrError overflowing erring : Bool) (r : RxDir) : RxDir :=
  { r with overflow := stickyNext r.overflow clrOverflow overflowing
           error    := stickyNext r.error clrError erring }

end Sys2Proof.Machine
end

