-- ==== Sys2Proof/Machine/Ops.lean ====
section
/-! DEFINITION. The named operations the meanings are built from: the register strobes, one tick of the RX direction
(41_uart_rx.md rule R106), of the TX direction (42_uart_tx.md rule R121), of the Sequencer (44_qspi_sequencer.md rule
R167), of the lane peer (rule R166), and the lockstep tick of the whole (00_scope.md rule R5). -/

namespace Sys2Proof.Machine

/-! ### What a register operation asks of a direction

A register operation lasts one tick (40_byte_lane.md rule R87). Each meaning of 43_uart_registers.md says which of these
strobes its operation raises. -/

/-- The strobes into the RX direction. -/
structure RxCtl where
  /-- A Config write: the new enable flag. -/
  enable      : Option Bool := none
  /-- A PhyConfig write: the word written. -/
  phy         : Option BusWord := none
  clrOverflow : Bool := false
  clrError    : Bool := false
  /-- An RxData read. -/
  consume     : Bool := false
  deriving DecidableEq, Repr

/-- The strobes into the TX direction. -/
structure TxCtl where
  enable : Option Bool := none
  phy    : Option BusWord := none
  /-- A TxData write: the byte offered on the symbols lane (40_byte_lane.md rule R87). -/
  byte   : Option Byte := none
  deriving DecidableEq, Repr

/-- The register operation of a tick, or none (43_uart_registers.md rule R125): its strobes, and the value it returns when
it is a read. -/
structure BusOp where
  rx    : RxCtl := {}
  tx    : TxCtl := {}
  rdata : Option BusWord := none
  deriving DecidableEq, Repr

/-- No register operation. -/
def noOp : BusOp := {}

/-! ### The RX direction -/

/-- The engine runs: enabled at the start of the tick, and the tick's operation is no disabling write (41_uart_rx.md rule
R90). -/
def rxRuns (c : RxCtl) (r : RxDir) : Bool := r.enable && c.enable != some false

/-- The event of the tick (41_uart_rx.md rules R95 to R97). -/
def rxEvent (par : Parity) (c : RxCtl) (level : Bool) (r : RxDir) : RxEvent :=
  if rxRuns c r && r.phase == .busy && r.timer == 0 && r.bitno == 0 then judgeFrame par (rxShiftIn par level r.shreg)
  else .none

/-- The line layer of a running engine: waiting (rule R93), counting (rule R94), sampling (rule R95). -/
def rxEngine (par : Parity) (level : Bool) (r : RxDir) : RxDir :=
  match r.phase with
  | .idle =>
    if level then r else { r with phase := .busy, timer := r.divisor >>> 1, bitno := lastBitNo par }
  | .busy =>
    if r.timer ≠ 0 then { r with timer := r.timer - 1 }
    else if r.bitno ≠ 0 then
      { r with shreg := rxShiftIn par level r.shreg, timer := r.divisor - 1, bitno := r.bitno - 1 }
    else { r with shreg := rxShiftIn par level r.shreg, timer := r.divisor - 1, phase := .idle }

/-- The direction held in reset: what a disable writes, and what every tick of a disabled direction asserts again
(41_uart_rx.md rules R90 and R103, 10_state.md rule R24). -/
def rxHold (r : RxDir) : RxDir :=
  { r with ready := false, phase := .idle, timer := 0, bitno := 0, shreg := 0 }

/-- The protocol layer: a byte stored (41_uart_rx.md rule R100), lost with `overflow` (rule R101), or a frame that is not
good (rule R102). -/
def rxApplyEvent (ev : RxEvent) (r : RxDir) : RxDir :=
  match ev with
  | .none      => r
  | .arrival b => if r.ready then raiseOverflow r else { r with buf := b, ready := true }
  | .error     => raiseError r

/-- The register operation, below the events of the tick (60_exceptions.md rules R172, R174 to R176). `ready` is the flag
at the start of the tick. -/
def rxApplyOp (c : RxCtl) (ev : RxEvent) (ready : Bool) (r : RxDir) : RxDir :=
  let r1 := clearSticky c.clrOverflow c.clrError (ev.isArrival && ready) ev.isError r
  let r2 := { r1 with ready := r1.ready && !(c.consume && !(ev.isArrival && !ready)) }
  let r3 := match c.phy with
    | none   => r2
    | some w => { r2 with res := reservedOperand w, divisor := if r2.enable then r2.divisor else divisorOperand w }
  { r3 with enable := c.enable.getD r3.enable }

/-- One tick of the RX direction (41_uart_rx.md rule R106) with `rst = 0`. -/
def rxStep (par : Parity) (c : RxCtl) (level : Bool) (r : RxDir) : RxDir :=
  let ev := rxEvent par c level r
  rxApplyOp c ev r.ready (if rxRuns c r then rxApplyEvent ev (rxEngine par level r) else rxHold r)

/-! ### The TX direction -/

/-- The engine runs (42_uart_tx.md rule R110). -/
def txRuns (c : TxCtl) (t : TxDir) : Bool := t.enable && c.enable != some false

/-- A byte accepted: the frame loaded and the start bit on the line (42_uart_tx.md rule R112). -/
def txAccept (par : Parity) (b : Byte) (t : TxDir) : TxDir :=
  { t with line := false, shreg := loadShift par b, bitno := lastBitNo par, timer := t.divisor - 1, phase := .busy }

/-- The line layer of a running engine: acceptance (42_uart_tx.md rule R112), counting (rule R115), next bit (rule R116),
frame end (rule R117). -/
def txEngine (par : Parity) (offered : Option Byte) (t : TxDir) : TxDir :=
  match t.phase with
  | .idle =>
    match offered with
    | none   => t
    | some b => txAccept par b t
  | .busy =>
    if t.timer ≠ 0 then { t with timer := t.timer - 1 }
    else if t.bitno ≠ 0 then
      { t with line := t.shreg.getLsbD 0, shreg := txShiftOut par t.shreg, bitno := t.bitno - 1, timer := t.divisor - 1 }
    else { t with phase := .idle }

/-- The direction held in reset (42_uart_tx.md rules R110 and R119, 10_state.md rule R25). -/
def txHold (t : TxDir) : TxDir :=
  { t with phase := .idle, timer := 0, bitno := 0, shreg := 0, line := true }

/-- The register operation of the tick (42_uart_tx.md rule R121). -/
def txApplyOp (c : TxCtl) (t : TxDir) : TxDir :=
  let t1 := match c.phy with
    | none   => t
    | some w => { t with res := reservedOperand w, divisor := if t.enable then t.divisor else divisorOperand w }
  { t1 with enable := c.enable.getD t1.enable }

/-- One tick of the TX direction (42_uart_tx.md rule R121) with `rst = 0`. -/
def txStep (par : Parity) (c : TxCtl) (t : TxDir) : TxDir :=
  txApplyOp c (if txRuns c t then txEngine par c.byte t else txHold t)

/-! ### The Sequencer -/

/-- The request inputs qualify: `req_valid & req_is_read` (44_qspi_sequencer.md rule R151). -/
def qualifies (p : Ports) : Bool := p.reqValid && p.reqIsRead

/-- `out_valid` (44_qspi_sequencer.md rules R151, R153, R155, R161). -/
def outValid (P : Params) (p : Ports) (q : Sequencer) : Bool :=
  match q.phase with
  | .idle        => qualifies p
  | .sendAddress => true
  | .receiveData => q.oCnt != P.W
  | .deselect    => true

/-- `out_mode` and `out_payload` (44_qspi_sequencer.md rules R151, R153, R155, R161). -/
def outItem (p : Ports) (q : Sequencer) : LaneItem :=
  match q.phase with
  | .idle        => { mode := .txSingle, payload := Config.cmdRead }
  | .sendAddress => { mode := .txSingle, payload := addressByte p.reqAddress q.aIdx.toNat }
  | .receiveData => { mode := .rxData, payload := Config.dummyPayload }
  | .deselect    => { mode := .deselect, payload := Config.dummyPayload }

/-- `in_ready` (44_qspi_sequencer.md rule R157). -/
def inReady (q : Sequencer) : Bool := q.phase == .receiveData

/-- The item transferred on the outbound lane in the tick, if one is (40_byte_lane.md rule R80). -/
def outXfer (P : Params) (p : Ports) (q : Sequencer) : Option LaneItem :=
  if outValid P p q && p.outReady then some (outItem p q) else none

/-- The byte offered on the inbound lane in the tick, if one is: the wires' own, or the first byte the lane peer owes
(44_qspi_sequencer.md rule R166). -/
def inOffer (p : Ports) (r : Peer) : Option Byte :=
  if p.inValid then (if p.inFromPeer then r.owed.head? else some p.inPayload) else none

/-- The byte transferred on the inbound lane in the tick, if one is (40_byte_lane.md rule R80). -/
def inXfer (p : Ports) (r : Peer) (q : Sequencer) : Option Byte :=
  if inReady q then inOffer p r else none

/-- The inbound side of `RECEIVE_DATA`: the byte stored at the input counter (44_qspi_sequencer.md rule R158), and on the
`W`-th byte the completion that overrides the offer counter (rule R159). -/
def storeByte (P : Params) (b : Byte) (q : Sequencer) : Sequencer :=
  let q1 := { q with result := q.result.set q.iCnt b }
  if q.iCnt ≠ P.lastByte then { q1 with iCnt := q.iCnt + 1 }
  else { q1 with ack := true, oCnt := 0, iCnt := 0, phase := .deselect }

/-- One tick of the Sequencer (44_qspi_sequencer.md rule R167) with `rst = 0`, given whether the offered item is
transferred and the inbound byte transferred. -/
def seqStep (P : Params) (took : Bool) (gave : Option Byte) (q : Sequencer) : Sequencer :=
  match q.phase with
  | .idle =>
    if took then { q with aIdx := 2, result := List.replicate P.W 0, phase := .sendAddress } else q
  | .sendAddress =>
    if took then (if q.aIdx ≠ 0 then { q with aIdx := q.aIdx - 1 } else { q with phase := .receiveData }) else q
  | .receiveData =>
    let q1 := if took then { q with oCnt := q.oCnt + 1 } else q
    match gave with
    | none   => q1
    | some b => storeByte P b q1
  | .deselect =>
    if took then { q with ack := false, phase := .idle } else { q with ack := false }

/-! ### The lane peer (44_qspi_sequencer.md rule R166) -/

/-- The flash address of a command: the three bytes after the command byte, most significant first (20_memory.md rule
R40). -/
def commandAddress (sent : List Byte) : Nat :=
  (sent.getD 1 0).toNat * 65536 + (sent.getD 2 0).toNat * 256 + (sent.getD 3 0).toNat

/-- The peer accepts an item: a receive offer makes it owe the next byte of flash, a deselect ends the command. -/
def peerTake (it : LaneItem) (r : Peer) : Peer :=
  let r1 := { r with taken := it :: r.taken }
  match it.mode with
  | .txSingle => { r1 with sent := r.sent ++ [it.payload] }
  | .rxData   =>
    { r1 with owed := r.owed ++ [Config.flashByte (commandAddress r.sent + r.served)], served := r.served + 1 }
  | .deselect => { r1 with sent := [], served := 0 }

/-- One tick of the lane peer: the byte it gave is no longer owed, the item it took is recorded. DESIGN CHOICE
(notes/assumptions/10.md): every byte transferred on the inbound lane, also one taken from the wires and not from `owed`,
counts as the answer to the oldest offer not yet answered, so the oldest byte owed goes. -/
def peerStep (took : Option LaneItem) (gave : Option Byte) (r : Peer) : Peer :=
  let r1 := match gave with
    | none   => r
    | some _ => { r with owed := r.owed.tail }
  match took with
  | none    => r1
  | some it => peerTake it r1

/-- The peer comes in step with a global reset: nothing owed, chip-select deasserted (70_reset_and_hazards.md rule
R195). The record of what it accepted stays. -/
def peerReset (r : Peer) : Peer := { r with owed := [], sent := [], served := 0 }

/-! ### The lockstep tick (00_scope.md rule R5) -/

/-- The level of `rx_line` in the tick; in a loopback it is the transmitter's line (10_state.md rule R28). -/
def lineLevel (p : Ports) (t : TxDir) : Bool := if p.loopback then t.line else p.rxLine

/-- The bus client sees `ack` and drops its request (44_qspi_sequencer.md rule R162, 30_encoding.md rule R75). -/
def dropOnAck (ack : Bool) (p : Ports) : Ports := { p with reqValid := p.reqValid && !ack }

/-- A tick with `rst = 1` (70_reset_and_hazards.md rule R191): every element takes its reset value, a read returns 0, no
lane transfer and no frame event happens. -/
def resetTick (op : BusOp) (p : Ports) (s : State) : State :=
  { s with
    rx       := RxDir.reset s.cfg
    tx       := TxDir.reset s.cfg
    seq      := Sequencer.reset s.cfg
    peer     := peerReset s.peer
    lineSeen := lineLevel p s.tx :: s.lineSeen
    out      := { rdata := op.rdata.map fun _ => 0, event := .none, outValid := false, outItem := outItem p s.seq,
                  inReady := false, ack := false, data := s.seq.result, txLine := s.tx.line } }

/-- A tick with `rst = 0`: the three machines and the lane peer step side by side, each from the state at the start of the
tick and the inputs `p` of the tick. -/
def runTick (op : BusOp) (p : Ports) (s : State) : State :=
  let level := lineLevel p s.tx
  let took := outXfer s.cfg p s.seq
  let gave := inXfer p s.peer s.seq
  { s with
    rx       := rxStep s.cfg.parity op.rx level s.rx
    tx       := txStep s.cfg.parity op.tx s.tx
    seq      := seqStep s.cfg took.isSome gave s.seq
    ports    := dropOnAck s.seq.ack s.ports
    peer     := peerStep took gave s.peer
    lineSeen := level :: s.lineSeen
    out      := { rdata := op.rdata, event := rxEvent s.cfg.parity op.rx level s.rx,
                  outValid := outValid s.cfg p s.seq, outItem := outItem p s.seq, inReady := inReady s.seq,
                  ack := s.seq.ack, data := s.seq.result, txLine := s.tx.line } }

/-- One tick of the whole hardware under the inputs `p` and at most one register operation (43_uart_registers.md rule
R125). The levels standing on the ports afterwards are the state's own, not `p`. -/
def tick (op : BusOp) (p : Ports) (s : State) : State :=
  if p.rst then resetTick op p s else runTick op p s

/-- A tick without a register operation under the standing port levels. -/
def idleTick (s : State) : State := tick noOp s.ports s

/-- `n` such ticks, the `idle <n>` of 30_encoding.md rule R75. -/
def idleTicks : Nat → State → State
  | 0,     s => s
  | n + 1, s => idleTicks n (idleTick s)

/-! ### Updates of the environment -/

/-- The state with other levels standing on its ports. -/
def State.withPorts (s : State) (p : Ports) : State := { s with ports := p }

/-- The state with another schedule. -/
def State.withSchedule (s : State) (l : List Slot) : State := { s with schedule := l }

/-- The state in another build; no step uses it (30_encoding.md rule R74). -/
def State.withBuild (s : State) (P : Params) : State := { s with cfg := P }

/-- The ports with a request on them. -/
def Ports.withRequest (p : Ports) (valid isRead : Bool) (a : FlashAddr) : Ports :=
  { p with reqValid := valid, reqIsRead := isRead, reqAddress := a }

end Sys2Proof.Machine
end

