-- ==== Sys2Proof/Machine/Lane.lean ====
section
/-! DEFINITION. The lane items of the Sequencer and the inbound byte (44_qspi_sequencer.md rules R151 to R161,
30_encoding.md rule R68). Executing an outbound item is one tick in which the lane peer is ready for exactly that item: it
is transferred when the Sequencer has it on offer, and any other offer is stalled (40_byte_lane.md rule R83;
notes/assumptions/5.md). -/

namespace Sys2Proof.Machine

/-- The place of the Sequencer's current item in the sequence of 30_encoding.md rule R68. -/
inductive ItemPlace
  | command | address (k : BitVec 2) | offer | deselect
  deriving DecidableEq, Repr

/-- Where the Sequencer stands in the sequence. -/
def placeOf (q : Sequencer) : ItemPlace :=
  match q.phase with
  | .idle        => .command
  | .sendAddress => .address q.aIdx
  | .receiveData => .offer
  | .deselect    => .deselect

/-- The item is on offer at that place in the tick under the inputs `p`. -/
def onOffer (place : ItemPlace) (it : LaneItem) (p : Ports) (s : State) : Bool :=
  placeOf s.seq == place && outValid s.cfg p s.seq && outItem p s.seq == it

/-- A tick in which the lane peer is ready for exactly one item at one place. -/
def acceptItem (place : ItemPlace) (it : LaneItem) (s : State) : Result :=
  .next (tick noOp { s.ports with outReady := onOffer place it s.ports s } s)

/-- `SEQ.CMD_READ` (44_qspi_sequencer.md rules R151, R152). -/
def execSeqCmdRead (s : State) : Result :=
  acceptItem .command { mode := .txSingle, payload := Config.cmdRead } s

/-- `SEQ.ADDR2` (44_qspi_sequencer.md rules R153, R154). -/
def execSeqAddr2 (payload : Byte) (s : State) : Result :=
  acceptItem (.address 2) { mode := .txSingle, payload := payload } s

/-- `SEQ.ADDR1` (44_qspi_sequencer.md rules R153, R154). -/
def execSeqAddr1 (payload : Byte) (s : State) : Result :=
  acceptItem (.address 1) { mode := .txSingle, payload := payload } s

/-- `SEQ.ADDR0` (44_qspi_sequencer.md rules R153, R154). -/
def execSeqAddr0 (payload : Byte) (s : State) : Result :=
  acceptItem (.address 0) { mode := .txSingle, payload := payload } s

/-- `SEQ.RX_OFFER` (44_qspi_sequencer.md rule R155). -/
def execSeqRxOffer (s : State) : Result :=
  acceptItem .offer { mode := .rxData, payload := Config.dummyPayload } s

/-- `SEQ.DESELECT` (44_qspi_sequencer.md rule R161). -/
def execSeqDeselect (s : State) : Result :=
  acceptItem .deselect { mode := .deselect, payload := Config.dummyPayload } s

/-- `SEQ.RX_BYTE`: a tick with the byte on the inbound wires. It is stored in `RECEIVE_DATA` (44_qspi_sequencer.md rules
R158, R159) and stalled in every other phase (rule R157). DESIGN CHOICE (notes/assumptions/5.md): the byte is on the wires
in this one tick. A byte that was stalled is withdrawn after it and the standing inbound wires return; a peer that holds
its offer until it is accepted (rule R166, 40_byte_lane.md rule R81) presents it again, or has it standing on the ports. -/
def execSeqRxByte (payload : Byte) (s : State) : Result :=
  .next (tick noOp { s.ports with inValid := true, inPayload := payload, inFromPeer := false } s)

end Sys2Proof.Machine
end

