-- ==== Sys2Proof/Machine/FlashCmd.lean ====
section
/-! DEFINITION. The flash opcode constants (30_encoding.md rule R71). `FLASH.READ` is the command byte of `SEQ.CMD_READ`,
the only opcode emitted. The other five are "defined but unused", without semantics, and a model has no operation that
sends them (93_implementation_defined.md U7), so their meanings refuse by name. -/

namespace Sys2Proof.Machine

/-- An opcode the Sequencer never emits. -/
def neverEmitted (opcode : Byte) : Result := .refused (.flashOpcodeNeverEmitted opcode)

/-- `FLASH.READ`: the tick in which the flash behind the lane takes the command byte (30_encoding.md rule R71,
44_qspi_sequencer.md rule R151). -/
def execFlashRead (s : State) : Result :=
  acceptItem .command { mode := .txSingle, payload := Config.cmdRead } s

/-- Opcode `0x0B` (30_encoding.md rule R71). -/
def execFlashUnused0B (_s : State) : Result := neverEmitted 0x0B

/-- Opcode `0x3B` (30_encoding.md rule R71). -/
def execFlashUnused3B (_s : State) : Result := neverEmitted 0x3B

/-- Opcode `0x6B` (30_encoding.md rule R71). -/
def execFlashUnused6B (_s : State) : Result := neverEmitted 0x6B

/-- Opcode `0xBB` (30_encoding.md rule R71). -/
def execFlashUnusedBB (_s : State) : Result := neverEmitted 0xBB

/-- Opcode `0xEB` (30_encoding.md rule R71). -/
def execFlashUnusedEB (_s : State) : Result := neverEmitted 0xEB

end Sys2Proof.Machine
end

