-- ==== Sys2Proof/Machine/Line.lean ====
section
/-! DEFINITION. The line frames (30_encoding.md rules R63, R64): a whole frame arriving on `rx_line`, each position lasting
`rx_divisor` ticks (41_uart_rx.md rule R92), while the rest of the hardware goes on in lockstep under the standing port
levels. A frame with stop 0 or a wrong parity bit ends in a decode
error by the receiver's own rules, and a word whose first level is 1 starts no frame there (30_encoding.md rule R72,
41_uart_rx.md rule R93). The frames the transmitter sends are the effect of `WR TX_DATA` (notes/assumptions/6.md). -/

namespace Sys2Proof.Machine

/-- A tick with a level on `rx_line` and no register operation. -/
def lineTick (level : Bool) (s : State) : State :=
  tick noOp { s.ports with rxLine := level, loopback := false } s

/-- A level held on `rx_line` for `n` ticks. -/
def holdLine : Nat → Bool → State → State
  | 0,     _,     s => s
  | n + 1, level, s => holdLine n level (lineTick level s)

/-- Levels driven on `rx_line` one after another, `d` ticks each. -/
def driveLine (d : Nat) : List Bool → State → State
  | [],         s => s
  | b :: rest,  s => driveLine d rest (holdLine d b s)

/-- `UART.FRAME_8N1` (30_encoding.md rules R63, R72; 41_uart_rx.md rules R93 to R96, R102). -/
def execUartFrame8N1 (data : FramedByte) (s : State) : Result :=
  .next (driveLine s.rx.divisor.toNat (levels8N1 data) s)

/-- `UART.FRAME_8P1` (30_encoding.md rules R64, R72; 41_uart_rx.md rules R93 to R98, R102). -/
def execUartFrame8P1 (data : FramedByte) (p : Bool) (s : State) : Result :=
  .next (driveLine s.rx.divisor.toNat (levels8P1 data p) s)

end Sys2Proof.Machine
end

