-- ==== Sys2Proof/Machine/Request.lean ====
section
/-! DEFINITION. The requests to the Sequencer (44_qspi_sequencer.md rules R151, R162, R163, 30_encoding.md rule R67): one
tick with the request on the request port. The request then stands on the port until the client sees `ack` or presents
another one (rule R162; notes/assumptions/7.md). -/

namespace Sys2Proof.Machine

/-- A tick with a request put on the request port. -/
def request (valid isRead : Bool) (a : FlashAddr) (s : State) : Result :=
  .next (idleTick (s.withPorts (s.ports.withRequest valid isRead a)))

/-- `REQ.READ` (44_qspi_sequencer.md rules R151, R164). -/
def execReqRead (address : FlashAddr) (s : State) : Result := request true true address s

/-- `REQ.WRITE`: starts nothing and is never acknowledged (44_qspi_sequencer.md rule R163). -/
def execReqWrite (address : FlashAddr) (s : State) : Result := request true false address s

/-- `REQ.NONE`: `req_valid = 0`; the other request inputs keep their levels' meaning, since the address is read live
(44_qspi_sequencer.md rules R151, R153). -/
def execReqNone (isRead : Bool) (address : FlashAddr) (s : State) : Result := request false isRead address s

end Sys2Proof.Machine
end

