-- ==== Sys2Proof/Machine/UartRx.lean ====
section
/-! DEFINITION. The register operations of the RX block (43_uart_registers.md rules R126 to R134): one tick of the hardware
in which the operation is presented. -/

namespace Sys2Proof.Machine

/-- A tick in which a register operation is presented, under the standing port levels. -/
def present (op : BusOp) (s : State) : Result := .next (tick op s.ports s)

/-- `RD RX_CONFIG` (43_uart_registers.md rule R126). -/
def execRdRxConfig (s : State) : Result :=
  present { rdata := some (bitWord s.rx.enable) } s

/-- `WR RX_CONFIG` (43_uart_registers.md rule R127; 41_uart_rx.md rules R103, R104). -/
def execWrRxConfig (wdata : BusWord) (s : State) : Result :=
  present { rx := { enable := some (enableOperand wdata) } } s

/-- `RD RX_PHYCONFIG` (43_uart_registers.md rule R128). -/
def execRdRxPhyConfig (s : State) : Result :=
  present { rdata := some (phyWord s.rx.res s.rx.divisor) } s

/-- `WR RX_PHYCONFIG` (43_uart_registers.md rule R129). -/
def execWrRxPhyConfig (wdata : BusWord) (s : State) : Result :=
  present { rx := { phy := some wdata } } s

/-- `RD RX_STATUS` (43_uart_registers.md rule R130). -/
def execRdRxStatus (s : State) : Result :=
  present { rdata := some (rxStatusWord s.rx.error s.rx.overflow s.rx.ready) } s

/-- `WR RX_STATUS` (43_uart_registers.md rule R132). -/
def execWrRxStatus (wdata : BusWord) (s : State) : Result :=
  present { rx := { clrOverflow := clrOverflowOperand wdata, clrError := clrErrorOperand wdata } } s

/-- `RD RX_DATA`, the consume action (43_uart_registers.md rule R134). -/
def execRdRxData (s : State) : Result :=
  present { rx := { consume := true }, rdata := some (byteWord s.rx.buf) } s

/-- `WR RX_DATA`: ignored (43_uart_registers.md rule R133). -/
def execWrRxData (_wdata : BusWord) (s : State) : Result :=
  present {} s

end Sys2Proof.Machine
end

