-- ==== Sys2Proof/Machine/UartTx.lean ====
section
/-! DEFINITION. The register operations of the TX block (43_uart_registers.md rules R135 to R142): one tick of the hardware
in which the operation is presented. -/

namespace Sys2Proof.Machine

/-- `RD TX_CONFIG` (43_uart_registers.md rule R135). -/
def execRdTxConfig (s : State) : Result :=
  present { rdata := some (bitWord s.tx.enable) } s

/-- `WR TX_CONFIG` (43_uart_registers.md rule R136; 42_uart_tx.md rules R118, R119). -/
def execWrTxConfig (wdata : BusWord) (s : State) : Result :=
  present { tx := { enable := some (enableOperand wdata) } } s

/-- `RD TX_PHYCONFIG` (43_uart_registers.md rule R137). -/
def execRdTxPhyConfig (s : State) : Result :=
  present { rdata := some (phyWord s.tx.res s.tx.divisor) } s

/-- `WR TX_PHYCONFIG` (43_uart_registers.md rule R138). -/
def execWrTxPhyConfig (wdata : BusWord) (s : State) : Result :=
  present { tx := { phy := some wdata } } s

/-- `RD TX_STATUS` (43_uart_registers.md rule R139). -/
def execRdTxStatus (s : State) : Result :=
  present { rdata := some (bitWord (txReady s.tx)) } s

/-- `WR TX_STATUS`: ignored (43_uart_registers.md rule R140). -/
def execWrTxStatus (_wdata : BusWord) (s : State) : Result :=
  present {} s

/-- `RD TX_DATA`: returns 0 (43_uart_registers.md rule R142). -/
def execRdTxData (s : State) : Result :=
  present { rdata := some 0 } s

/-- `WR TX_DATA`: the byte is accepted when the transmitter is ready, else lost (43_uart_registers.md rule R141,
42_uart_tx.md rule R112). -/
def execWrTxData (wdata : BusWord) (s : State) : Result :=
  present { tx := { byte := some (byteOperand wdata) } } s

end Sys2Proof.Machine
end

