-- ==== Sys2Proof/Machine/Dispatch.lean ====
section
/-! DEFINITION. The meaning of every operation of spec/opcode_table.json, one arm a row. -/

namespace Sys2Proof.Machine

def exec (i : Instr) (s : State) : Host.Outcome State Fault Refusal :=
  match i with
  | .rdRxConfig => Sys2Proof.Machine.execRdRxConfig s
  | .wrRxConfig wdata => Sys2Proof.Machine.execWrRxConfig wdata s
  | .rdRxPhyConfig => Sys2Proof.Machine.execRdRxPhyConfig s
  | .wrRxPhyConfig wdata => Sys2Proof.Machine.execWrRxPhyConfig wdata s
  | .rdRxStatus => Sys2Proof.Machine.execRdRxStatus s
  | .wrRxStatus wdata => Sys2Proof.Machine.execWrRxStatus wdata s
  | .rdRxData => Sys2Proof.Machine.execRdRxData s
  | .wrRxData wdata => Sys2Proof.Machine.execWrRxData wdata s
  | .rdTxConfig => Sys2Proof.Machine.execRdTxConfig s
  | .wrTxConfig wdata => Sys2Proof.Machine.execWrTxConfig wdata s
  | .rdTxPhyConfig => Sys2Proof.Machine.execRdTxPhyConfig s
  | .wrTxPhyConfig wdata => Sys2Proof.Machine.execWrTxPhyConfig wdata s
  | .rdTxStatus => Sys2Proof.Machine.execRdTxStatus s
  | .wrTxStatus wdata => Sys2Proof.Machine.execWrTxStatus wdata s
  | .rdTxData => Sys2Proof.Machine.execRdTxData s
  | .wrTxData wdata => Sys2Proof.Machine.execWrTxData wdata s
  | .seqCmdRead => Sys2Proof.Machine.execSeqCmdRead s
  | .seqAddr2 payload => Sys2Proof.Machine.execSeqAddr2 payload s
  | .seqAddr1 payload => Sys2Proof.Machine.execSeqAddr1 payload s
  | .seqAddr0 payload => Sys2Proof.Machine.execSeqAddr0 payload s
  | .seqRxOffer => Sys2Proof.Machine.execSeqRxOffer s
  | .seqDeselect => Sys2Proof.Machine.execSeqDeselect s
  | .seqRxByte payload => Sys2Proof.Machine.execSeqRxByte payload s
  | .uartFrame8N1 data => Sys2Proof.Machine.execUartFrame8N1 data s
  | .uartFrame8P1 data parityBit => Sys2Proof.Machine.execUartFrame8P1 data parityBit s
  | .reqRead address => Sys2Proof.Machine.execReqRead address s
  | .reqWrite address => Sys2Proof.Machine.execReqWrite address s
  | .reqNone isRead address => Sys2Proof.Machine.execReqNone isRead address s
  | .flashRead => Sys2Proof.Machine.execFlashRead s
  | .flashUnused0B => Sys2Proof.Machine.execFlashUnused0B s
  | .flashUnused3B => Sys2Proof.Machine.execFlashUnused3B s
  | .flashUnused6B => Sys2Proof.Machine.execFlashUnused6B s
  | .flashUnusedBB => Sys2Proof.Machine.execFlashUnusedBB s
  | .flashUnusedEB => Sys2Proof.Machine.execFlashUnusedEB s

end Sys2Proof.Machine
end

