-- ==== Sys2Proof/Machine/Fetch.lean ====
section
/-! DEFINITION. What the environment presents next. The hardware fetches no instruction (10_state.md rule R12); a step
takes the head of the schedule, and when there is none the levels standing on the ports, whose request is then the
operation of the tick (notes/assumptions/2.md). -/

namespace Sys2Proof.Machine

/-- The request standing on the ports, as a raw operation (30_encoding.md rule R67). -/
def standingRequest (p : Ports) : RawOp := encodeReq p.reqValid p.reqIsRead p.reqAddress

/-- What is presented in the next step. -/
def nextSlot (s : State) : Slot :=
  match s.schedule with
  | slot :: _ => slot
  | []        => { ports := s.ports, op := standingRequest s.ports }

/-- The state with the next slot's levels on its ports and the slot taken off the schedule. -/
def loadSlot (s : State) : State :=
  (s.withPorts (nextSlot s).ports).withSchedule s.schedule.tail

/-- The slot that presents an operation under the levels standing now. -/
def slotOf (op : RawOp) (s : State) : Slot := { ports := s.ports, op := op }

/-- The state with an operation put at the head of the schedule, under the levels standing now. -/
def presentNext (op : RawOp) (s : State) : State := s.withSchedule (slotOf op s :: s.schedule)

end Sys2Proof.Machine
end

