-- ==== Sys2Proof/Machine/Step.lean ====
section
/-! DEFINITION. One step of the machine: the operation presented next, decoded and executed under the levels presented
with it. -/

namespace Sys2Proof.Machine

/-- One step. What is no operation of the table is refused by name: an offset where no register stands (20_memory.md rule
R45, 43_uart_registers.md rule R143: "a model refuses it"), a lane item the Sequencer never produces (30_encoding.md rules
R65, R68, R72), a byte that is none of the flash opcodes (rule R71), bits a port has no wire for (rule R60). -/
def step (s : State) : Host.Outcome State Fault Refusal :=
  match decode s.cfg (nextSlot s).op with
  | .error why => .refused (.undecodable why)
  | .ok i      => exec i (loadSlot s)

/-- The state with the instruction of a bare word presented in its next step, under the levels standing now, in the build
that has the instruction: another than the state's own only for a frame with parity where the state's has none
(notes/assumptions/8.md). -/
def State.withFetchWord (s : State) (nbits w : Nat) : State :=
  let P := tableBuild s.cfg nbits w
  presentNext (tableOp P nbits w) (s.withBuild P)

end Sys2Proof.Machine
end

