-- ==== Sys2Proof/Machine/Script.lean ====
section
/-! DEFINITION. The controller's script notation (30_encoding.md rules R75, R76): what a controller presents to the register
port line by line. The polls repeat without a bound in the spec; here a bound is given, and a poll that does not succeed
within it answers none. -/

namespace Sys2Proof.Machine

/-- `wr <REG>, <value>`. -/
def wr (r : Reg) (v : BusWord) : Instr := csrInstr true r v

/-- `rd <REG>`. -/
def rd (r : Reg) : Instr := csrInstr false r 0

/-- The state after one instruction, if it answers one. -/
def after (i : Instr) (s : State) : Option State :=
  match exec i s with
  | .next t    => some t
  | .fault _   => none
  | .refused _ => none

/-- The state after instructions presented one tick after another. -/
def afterAll : List Instr → State → Option State
  | [],     s => some s
  | i :: l, s => (after i s).bind (afterAll l)

/-- The divisor software sets for a baud rate: the clock frequency over it, rounded to the nearest integer
(41_uart_rx.md rule R92, 70_reset_and_hazards.md rule R194). -/
def divisorFor (clkHz baud : Nat) : BusWord := BitVec.ofNat 32 ((2 * clkHz + baud) / (2 * baud))

/-- `rxsetup <div>`. -/
def rxSetup (div : BusWord) : List Instr := [wr .rxConfig 0, wr .rxPhyConfig div, wr .rxConfig 1]

/-- `txsetup <div>`. -/
def txSetup (div : BusWord) : List Instr := [wr .txConfig 0, wr .txPhyConfig div, wr .txConfig 1]

/-- `clrflags`. -/
def clrFlags : Instr := wr .rxStatus 0x06

/-- `poll <REG>, <mask>, <want>`: the state after the read that matched. -/
def poll (r : Reg) (mask want : BusWord) : Nat → State → Option State
  | 0,     _ => none
  | n + 1, s =>
    match after (rd r) s with
    | none   => none
    | some t => if (t.out.rdata.getD 0 &&& mask) = want then some t else poll r mask want n t

/-- `putc <byte>`. -/
def putc (bound : Nat) (b : Byte) (s : State) : Option State :=
  (poll .txStatus 1 1 bound s).bind (after (wr .txData (byteWord b)))

/-- `getc`: the state after the RxData read, whose `rdata` is the byte. -/
def getc (bound : Nat) (s : State) : Option State :=
  (poll .rxStatus 1 1 bound s).bind (after (rd .rxData))

end Sys2Proof.Machine
end

