-- ==== Sys2Proof/Safety.lean ====
section
/-! DEFINITION. What the statements speak of: a step that goes on, the quiet state (70_reset_and_hazards.md rule R209), the
divisors the line layer makes a promise for (rule R203), the invariant of the machine's states, and a flash read in
flight under the contracts of 44_qspi_sequencer.md rules R162 and R166. -/

namespace Sys2Proof.Machine

/-- The step goes on. -/
def StepGoesOn (s : State) : Prop := ∃ t, step s = .next t

/-! ### Which operations are which -/

/-- A flash opcode the Sequencer never emits (30_encoding.md rule R71). -/
def isUnusedOpcode : Instr → Bool
  | .flashUnused0B | .flashUnused3B | .flashUnused6B | .flashUnusedBB | .flashUnusedEB => true
  | .rdRxConfig | .wrRxConfig _ | .rdRxPhyConfig | .wrRxPhyConfig _ => false
  | .rdRxStatus | .wrRxStatus _ | .rdRxData | .wrRxData _ => false
  | .rdTxConfig | .wrTxConfig _ | .rdTxPhyConfig | .wrTxPhyConfig _ => false
  | .rdTxStatus | .wrTxStatus _ | .rdTxData | .wrTxData _ => false
  | .seqCmdRead | .seqAddr2 _ | .seqAddr1 _ | .seqAddr0 _ | .seqRxOffer | .seqDeselect | .seqRxByte _ => false
  | .uartFrame8N1 _ | .uartFrame8P1 _ _ => false
  | .reqRead _ | .reqWrite _ | .reqNone _ _ => false
  | .flashRead => false

/-- A line frame, which lasts as many ticks as its bits do; every other operation that has a meaning lasts one. -/
def isLineFrame : Instr → Bool
  | .uartFrame8N1 _ | .uartFrame8P1 _ _ => true
  | .rdRxConfig | .wrRxConfig _ | .rdRxPhyConfig | .wrRxPhyConfig _ => false
  | .rdRxStatus | .wrRxStatus _ | .rdRxData | .wrRxData _ => false
  | .rdTxConfig | .wrTxConfig _ | .rdTxPhyConfig | .wrTxPhyConfig _ => false
  | .rdTxStatus | .wrTxStatus _ | .rdTxData | .wrTxData _ => false
  | .seqCmdRead | .seqAddr2 _ | .seqAddr1 _ | .seqAddr0 _ | .seqRxOffer | .seqDeselect | .seqRxByte _ => false
  | .reqRead _ | .reqWrite _ | .reqNone _ _ => false
  | .flashRead | .flashUnused0B | .flashUnused3B | .flashUnused6B | .flashUnusedBB | .flashUnusedEB => false

/-- One of the eight register reads. -/
def isRegisterRead : Instr → Bool
  | .rdRxConfig | .rdRxPhyConfig | .rdRxStatus | .rdRxData | .rdTxConfig | .rdTxPhyConfig | .rdTxStatus | .rdTxData => true
  | .wrRxConfig _ | .wrRxPhyConfig _ | .wrRxStatus _ | .wrRxData _ => false
  | .wrTxConfig _ | .wrTxPhyConfig _ | .wrTxStatus _ | .wrTxData _ => false
  | .seqCmdRead | .seqAddr2 _ | .seqAddr1 _ | .seqAddr0 _ | .seqRxOffer | .seqDeselect | .seqRxByte _ => false
  | .uartFrame8N1 _ | .uartFrame8P1 _ _ => false
  | .reqRead _ | .reqWrite _ | .reqNone _ _ => false
  | .flashRead | .flashUnused0B | .flashUnused3B | .flashUnused6B | .flashUnusedBB | .flashUnusedEB => false

/-- The operation takes at least one tick in a state: it is not refused, and a line frame has bits that last (at
`rx_divisor = 0` its levels are driven for no tick, notes/assumptions/6.md). -/
abbrev TakesATick (i : Instr) (s : State) : Prop :=
  isUnusedOpcode i = false ∧ (isLineFrame i = true → s.rx.divisor ≠ 0)

/-- In this hardware's build a selector stands for an operation, whatever the word beside it (30_encoding.md rule R70). -/
abbrev Selects (selector : BitVec 16) (f : BusWord → Instr) : Prop :=
  ∀ w, decode Config.thisHardware { format := .csr, bits := selector, operand := w } = .ok (f w)

/-! ### What a tick leaves as a tick without the operation leaves it -/

/-- Everything but the RX direction and the outputs is as after a tick without a register operation. -/
abbrev RestAsIdleButRx (s t : State) : Prop :=
  t = { idleTick s with rx := t.rx, out := t.out }

/-- Everything but the TX direction and the outputs is as after a tick without a register operation. -/
abbrev RestAsIdleButTx (s t : State) : Prop :=
  t = { idleTick s with tx := t.tx, out := t.out }

/-- Everything but the Sequencer, the lane peer and the outputs is as after a tick without a register operation. -/
abbrev RestAsIdleButLane (s t : State) : Prop :=
  t = { idleTick s with seq := t.seq, peer := t.peer, out := t.out }

/-! ### The invariant -/

/-- A direction's timer stays below its divisor (41_uart_rx.md rules R93, R95; 42_uart_tx.md rules R112, R116), for a
divisor that is not 0. -/
abbrev TimerBelow (timer divisor : BitVec 24) : Prop := divisor ≠ 0 → timer.toNat < divisor.toNat

/-- The RX direction: a disabled direction is in reset (10_state.md rule R24), the bit counter is in range
(45_arithmetic_and_control.md rule R145) and 0 between frames, and the sample register has `N` bits. -/
abbrev RxInv (par : Parity) (r : RxDir) : Prop :=
  (r.enable = false → r.ready = false ∧ r.phase = .idle ∧ r.timer = 0 ∧ r.bitno = 0 ∧ r.shreg = 0) ∧
  r.bitno.toNat < frameLength par ∧
  (r.phase = .idle → r.bitno = 0) ∧
  (par = .none → r.shreg.getLsbD 10 = false) ∧
  TimerBelow r.timer r.divisor

/-- The TX direction: a disabled direction is in reset (10_state.md rule R25), the line rests at 1 whenever no frame is in
progress (42_uart_tx.md rule R120), and the bits that follow the data in the shift register are ones (rule R113). -/
abbrev TxInv (par : Parity) (t : TxDir) : Prop :=
  (t.enable = false → t.phase = .idle ∧ t.timer = 0 ∧ t.bitno = 0 ∧ t.shreg = 0 ∧ t.line = true) ∧
  t.bitno.toNat < frameLength par ∧
  (t.phase = .idle → t.line = true ∧ t.bitno = 0) ∧
  (t.phase = .busy → t.bitno = 0 → t.line = true) ∧
  (t.phase = .busy → ∀ i < frameLength par - 1, t.bitno.toNat ≤ i + 1 → t.shreg.getLsbD i = true) ∧
  (par = .none → t.shreg.getLsbD 9 = false) ∧
  TimerBelow t.timer t.divisor

/-- The Sequencer: the counters are in range and 0 outside their phase (10_state.md rule R26, 44_qspi_sequencer.md rules
R152, R159), `ack` is 1 only in `DESELECT` (rule R160), and the result word has `W` bytes. -/
abbrev SeqInv (P : Params) (q : Sequencer) : Prop :=
  q.aIdx.toNat ≤ 2 ∧
  (q.phase ≠ .sendAddress → q.aIdx = 0) ∧
  (q.phase ≠ .receiveData → q.oCnt = 0 ∧ q.iCnt = 0) ∧
  q.oCnt ≤ P.W ∧ q.iCnt < P.W ∧
  (q.ack = true → q.phase = .deselect) ∧
  q.result.length = P.W

/-- The invariant of the machine's states. -/
abbrev GoodState (s : State) : Prop :=
  RxInv s.cfg.parity s.rx ∧ TxInv s.cfg.parity s.tx ∧ SeqInv s.cfg s.seq

/-! ### Quiet states (70_reset_and_hazards.md rule R209) -/

/-- A quiet state in a quiet environment. -/
abbrev Quiet (s : State) : Prop :=
  s.ports.rst = false ∧ s.seq.phase = .idle ∧ qualifies s.ports = false ∧
  (s.tx.enable = false ∨ s.tx.phase = .idle) ∧
  (s.rx.enable = false ∨ (s.rx.phase = .idle ∧ lineLevel s.ports s.tx = true))

/-- The Sequencer's inputs are the same (44_qspi_sequencer.md rule R150): the request, the readiness of the outbound lane,
and what the inbound lane offers. -/
abbrev SameLanePorts (p q : Ports) : Prop :=
  p.reqValid = q.reqValid ∧ p.reqIsRead = q.reqIsRead ∧ p.reqAddress = q.reqAddress ∧ p.outReady = q.outReady ∧
  p.inValid = q.inValid ∧ p.inPayload = q.inPayload ∧ p.inFromPeer = q.inFromPeer

/-- The hardware's own state is the same in two states. -/
abbrev SameHardware (s t : State) : Prop := t.cfg = s.cfg ∧ t.rx = s.rx ∧ t.tx = s.tx ∧ t.seq = s.seq

/-! ### A flash read in flight -/

/-- `MemRead(A, n)`: the bytes of flash from an address on, in ascending order (00_scope.md section 4). -/
def memRead (a : Nat) (n : Nat) : List Byte := (List.range n).map fun j => Config.flashByte (a + j)

/-- The single-lane bytes of a read command: the opcode and the address, most significant byte first (30_encoding.md rule
R68, 20_memory.md rule R40). -/
def commandBytes (a : FlashAddr) : List Byte := [Config.cmdRead, addressByte a 2, addressByte a 1, addressByte a 0]

/-- The items of a whole transaction, in order (30_encoding.md rule R68). -/
def transactionItems (P : Params) (a : FlashAddr) : List LaneItem :=
  (commandBytes a).map (fun b => { mode := .txSingle, payload := b }) ++
  List.replicate P.W { mode := .rxData, payload := Config.dummyPayload } ++
  [{ mode := .deselect, payload := Config.dummyPayload }]

/-- The lane peer is in step with the Sequencer (44_qspi_sequencer.md rule R166): it has taken the bytes sent so far, it owes
one byte for every receive offer accepted and not yet answered, and what has been stored is what the flash holds at the
address `a` (rule R164). -/
abbrev InStep (a : FlashAddr) (s : State) : Prop :=
  (s.seq.phase = .idle → s.peer.sent = [] ∧ s.peer.served = 0 ∧ s.peer.owed = []) ∧
  (s.seq.phase = .sendAddress →
    s.peer.sent = (commandBytes a).take (3 - s.seq.aIdx.toNat) ∧ s.peer.served = 0 ∧ s.peer.owed = []) ∧
  (s.seq.phase = .receiveData →
    s.peer.sent = commandBytes a ∧ s.peer.served = s.seq.oCnt ∧ s.seq.iCnt ≤ s.seq.oCnt ∧
    s.peer.owed = (memRead a.toNat s.seq.oCnt).drop s.seq.iCnt ∧
    s.seq.result.take s.seq.iCnt = memRead a.toNat s.seq.iCnt) ∧
  (s.seq.phase = .deselect → s.peer.owed = [] ∧ s.seq.result = memRead a.toNat s.cfg.W)

/-- The neighbours keep their contracts in a tick: the client holds the address (44_qspi_sequencer.md rule R162) and inbound
bytes come from the peer that owes them (rule R166). When either is ready is left open. -/
abbrev NeighboursKeep (a : FlashAddr) (p : Ports) : Prop :=
  p.rst = false ∧ p.reqAddress = a ∧ p.inFromPeer = true

end Sys2Proof.Machine
end

