-- ==== Sys2Proof/Certificates/Slice0/Obligations.lean ====
section
/-! DEFINITION. The statements for the provers. Each docstring names the rule of spec/ it formalises, or says that it states
the model's own choice. -/

open Sys2Proof Sys2Proof.Machine

/-! ### Encoding -/

/-- 30_encoding.md rules R61 to R72: for every build whose eight register offsets differ, decoding what the encoder
writes for an operation that exists in the build gives that operation back, with every operand. The position that
tells lane items of one mode apart stands beside the bits. By rules R60, R72 and R74 a build has frames of one length: a
`LINE` word is read as a frame when it has no bit above that length, and refused when it has. (That a longer word is
refused is the model's deduction, notes/assumptions/21.md.) -/
def Obligations.DecodeGivesBackEveryEncodedOperation : Prop :=
  ∀ P : Params, P.wf →
    (∀ i : Instr, i.wf P = true → decode P (encode P i) = .ok i) ∧
    (∀ (bits : BitVec 16) (x : BusWord),
      (bits.toNat < 2 ^ frameLength P.parity →
        ∃ i, i.wf P = true ∧ decode P { format := .line, bits := bits, operand := x } = .ok i ∧
          (encode P i).bits = bits) ∧
      (2 ^ frameLength P.parity ≤ bits.toNat →
        decode P { format := .line, bits := bits, operand := x } = .error .bitsAboveFormat))

/-- 30_encoding.md rules R70 and R74: a raw operation is only ever read as an operation that exists in the build and whose
own encoding has the same format and the same bits, so no bit the table fixes is overlooked. (The position beside a lane
item is not part of the bits; notes/assumptions/30.md.) -/
def Obligations.DecodedOperationHasTheBitsRead : Prop :=
  ∀ (P : Params) (r : RawOp) (i : Instr), decode P r = .ok i →
    i.wf P = true ∧ (encode P i).format = r.format ∧ (encode P i).bits = r.bits

/-- 30_encoding.md rule R77, the worked encodings: each decodes to its operation, and the worked frames have their
levels and parity bit. (The mode tags are the spec's decision D22, the frame its
decisions D4 and D5.) -/
def Obligations.WorkedEncodingsDecode : Prop :=
  decode Config.thisHardware { format := .csr, bits := 0x404, operand := 0x000001A1 } = .ok (.wrRxPhyConfig 417) ∧
  (∀ w, decode Config.thisHardware { format := .csr, bits := 0x00C, operand := w } = .ok .rdRxData) ∧
  levels8N1 (.ofByte 0x61) = [false, true, false, false, false, false, true, true, false, true] ∧
  decode Config.thisHardware { format := .line, bits := 0x2C2, operand := 0 } = .ok (.uartFrame8N1 (.ofByte 0x61)) ∧
  parityBit .even 0x61 = true ∧
  frameLevels .even 0x61 = [false, true, false, false, false, false, true, true, false, true, true] ∧
  decode Config.thisHardware { format := .lane, bits := 0x103, operand := 0 } = .ok .seqCmdRead ∧
  decode Config.thisHardware { format := .lane, bits := 0x200, operand := 4 } = .ok .seqRxOffer ∧
  decode Config.thisHardware { format := .lane, bits := 0x000, operand := 8 } = .ok .seqDeselect

/-- 43_uart_registers.md rule R143: a register operation at an offset where no register stands is refused. (The
spec's decision D14.) -/
def Obligations.UndefinedRegisterOffsetIsRefused : Prop :=
  ∀ (s : State) (slot : Slot) (rest : List Slot), s.schedule = slot :: rest → slot.op.format = .csr →
    slot.op.bits.toNat < 2048 → (∀ r : Reg, s.cfg.layout.offset r ≠ slot.op.bits.extractLsb' 0 10) →
    step s = .refused (.undecodable .csrOffsetUndefined)

/-! ### Steps -/

/-- A step runs the operation its slot decodes to, under the levels of that slot and with the slot taken off the
schedule, and refuses by name what decodes to none. That the environment's operations stand in a schedule is the
model's choice (notes/assumptions/2.md). An undefined register offset is refused by 20_memory.md rule R45 and
43_uart_registers.md rule R143, and 30_encoding.md rule R73 has a model refuse what is outside the spec; that bits above
a format, lane mode 3, a lane item's position or payload and an unlisted opcode are such cases is the model's deduction
(notes/assumptions/21.md). -/
def Obligations.StepRunsTheDecodedOperation : Prop :=
  ∀ (s : State) (slot : Slot) (rest : List Slot), s.schedule = slot :: rest →
    (∀ i, decode s.cfg slot.op = .ok i → step s = exec i ((s.withPorts slot.ports).withSchedule rest)) ∧
    (∀ why, decode s.cfg slot.op = .error why → step s = .refused (.undecodable why))

/-- The model's choice (notes/assumptions/2.md): with nothing scheduled a step is one tick, without a register operation,
under the levels standing on the ports. -/
def Obligations.UnscheduledStepIsAnIdleTick : Prop :=
  ∀ s : State, s.schedule = [] → step s = .next (idleTick s)

/-- 60_exceptions.md rule R170: no operation is refused but the five opcodes the Sequencer never emits; every other one
answers a next state from every state. -/
def Obligations.EveryOtherOperationAlwaysCompletes : Prop :=
  ∀ (i : Instr) (s : State), isUnusedOpcode i = false → ∃ t, exec i s = .next t

/-- 30_encoding.md rule R71: the five opcodes that are defined but unused have no operation. The refusal is that of
93_implementation_defined.md U7 (notes/assumptions/21.md). -/
def Obligations.UnusedFlashOpcodesAreRefused : Prop :=
  ∀ s : State,
    exec .flashUnused0B s = .refused (.flashOpcodeNeverEmitted 0x0B) ∧
    exec .flashUnused3B s = .refused (.flashOpcodeNeverEmitted 0x3B) ∧
    exec .flashUnused6B s = .refused (.flashOpcodeNeverEmitted 0x6B) ∧
    exec .flashUnusedBB s = .refused (.flashOpcodeNeverEmitted 0xBB) ∧
    exec .flashUnusedEB s = .refused (.flashOpcodeNeverEmitted 0xEB)

/-! ### Reset -/

/-- 10_state.md rule R29: with `rst = 1` every element takes its reset value, whatever operation is presented, a
line frame among them when it lasts at least one tick. (The spec's decisions D2 and D15; notes/assumptions/9.md.) -/
def Obligations.ResetTickLoadsEveryResetValue : Prop :=
  ∀ (i : Instr) (s : State), s.ports.rst = true → TakesATick i s →
    ∃ t, exec i s = .next t ∧ t.cfg = s.cfg ∧
      t.rx = { enable := false, divisor := s.cfg.rxInitDivisor, res := 0, ready := false, overflow := false,
               error := false, buf := 0, phase := .idle, timer := 0, bitno := 0, shreg := 0 } ∧
      t.tx = { enable := false, divisor := s.cfg.txInitDivisor, res := 0, phase := .idle, timer := 0, bitno := 0,
               shreg := 0, line := true } ∧
      t.seq = { phase := .idle, aIdx := 0, oCnt := 0, iCnt := 0, result := List.replicate s.cfg.W 0, ack := false }

/-- 70_reset_and_hazards.md rule R191: under `rst` each of the eight reads returns 0 and nothing else returns
another value, no lane transfer happens and no frame event is produced, whatever operation is presented, a line
frame among them when it lasts at least one tick. (The spec's decision D2.) -/
def Obligations.ResetTickDrivesNothing : Prop :=
  ∀ (i : Instr) (s : State), s.ports.rst = true → TakesATick i s →
    ∃ t, exec i s = .next t ∧ (isRegisterRead i = true → t.out.rdata = some 0) ∧
      (∀ v, t.out.rdata = some v → v = 0) ∧ t.out.outValid = false ∧ t.out.inReady = false ∧
      t.out.ack = false ∧ t.out.event = .none ∧ t.peer.taken = s.peer.taken

/-- 70_reset_and_hazards.md rule R192: what a controller reads right after reset, in every build. (Derived by the
spec from R29, its decision D15.) -/
def Obligations.ReadsRightAfterReset : Prop :=
  ∀ P : Params,
    (∃ t, exec .rdRxConfig (State.resetOf P) = .next t ∧ t.out.rdata = some 0) ∧
    (∃ t, exec .rdRxPhyConfig (State.resetOf P) = .next t ∧ t.out.rdata = some (P.rxInitDivisor.setWidth 32)) ∧
    (∃ t, exec .rdRxStatus (State.resetOf P) = .next t ∧ t.out.rdata = some 0) ∧
    (∃ t, exec .rdRxData (State.resetOf P) = .next t ∧ t.out.rdata = some 0) ∧
    (∃ t, exec .rdTxConfig (State.resetOf P) = .next t ∧ t.out.rdata = some 0) ∧
    (∃ t, exec .rdTxPhyConfig (State.resetOf P) = .next t ∧ t.out.rdata = some (P.txInitDivisor.setWidth 32)) ∧
    (∃ t, exec .rdTxStatus (State.resetOf P) = .next t ∧ t.out.rdata = some 0) ∧
    (∃ t, exec .rdTxData (State.resetOf P) = .next t ∧ t.out.rdata = some 0) ∧
    (State.resetOf P).tx.line = true ∧ (State.resetOf P).seq.phase = .idle ∧ (State.resetOf P).seq.ack = false ∧
    wordOfBytes (State.resetOf P).seq.result = 0

/-! ### The register operations -/

/-- 43_uart_registers.md rules R126, R128, R130: the three reads of the RX block without side effect return their fields and
are otherwise a tick without a register operation. -/
def Obligations.RxReadsReturnFieldsAndChangeNothing : Prop :=
  Selects 0x000 (fun _ => .rdRxConfig) ∧ Selects 0x004 (fun _ => .rdRxPhyConfig) ∧ Selects 0x008 (fun _ => .rdRxStatus) ∧
  ∀ s : State, s.ports.rst = false →
    exec .rdRxConfig s = .next { idleTick s with out := { (idleTick s).out with
      rdata := some (BitVec.ofNat 32 s.rx.enable.toNat) } } ∧
    exec .rdRxPhyConfig s = .next { idleTick s with out := { (idleTick s).out with
      rdata := some (BitVec.ofNat 32 (s.rx.res.toNat * 2 ^ 24 + s.rx.divisor.toNat)) } } ∧
    exec .rdRxStatus s = .next { idleTick s with out := { (idleTick s).out with
      rdata := some (BitVec.ofNat 32 (4 * s.rx.error.toNat + 2 * s.rx.overflow.toNat + s.rx.ready.toNat)) } }

/-- 43_uart_registers.md rules R135, R137, R139, R142: the four reads of the TX block; `tx_ready` is 1 exactly when
enabled and idle, and TxData reads 0. (Ready while disabled is the spec's decision D18, the TxData read its decision
D14.) -/
def Obligations.TxReadsReturnFieldsAndChangeNothing : Prop :=
  Selects 0x200 (fun _ => .rdTxConfig) ∧ Selects 0x204 (fun _ => .rdTxPhyConfig) ∧ Selects 0x208 (fun _ => .rdTxStatus) ∧
  Selects 0x20C (fun _ => .rdTxData) ∧
  ∀ s : State, s.ports.rst = false →
    exec .rdTxConfig s = .next { idleTick s with out := { (idleTick s).out with
      rdata := some (BitVec.ofNat 32 s.tx.enable.toNat) } } ∧
    exec .rdTxPhyConfig s = .next { idleTick s with out := { (idleTick s).out with
      rdata := some (BitVec.ofNat 32 (s.tx.res.toNat * 2 ^ 24 + s.tx.divisor.toNat)) } } ∧
    exec .rdTxStatus s = .next { idleTick s with out := { (idleTick s).out with
      rdata := some (if s.tx.enable = true ∧ s.tx.phase = .idle then 1 else 0) } } ∧
    exec .rdTxData s = .next { idleTick s with out := { (idleTick s).out with rdata := some 0 } }

/-- 43_uart_registers.md rule R134 with 60_exceptions.md rules R174, R175: the consume returns the buffered byte and
clears `ready`, except that a byte arriving into an empty buffer in the same tick is stored and announced; a byte
arriving into a full buffer in the same tick is lost and sets `overflow`. (The outcomes of an arrival in the tick of
the read are the spec's decision D16; 93_implementation_defined.md U15 leaves that of the full buffer open,
notes/assumptions/13.md.) -/
def Obligations.RxDataReadConsumesTheByte : Prop :=
  Selects 0x00C (fun _ => .rdRxData) ∧
  ∀ s : State, s.ports.rst = false → ∃ t, exec .rdRxData s = .next t ∧ RestAsIdleButRx s t ∧
    t.out.rdata = some (BitVec.ofNat 32 s.rx.buf.toNat) ∧
    ((∀ b, (idleTick s).out.event = .arrival b → s.rx.ready = true) →
      t.rx = { (idleTick s).rx with ready := false } ∧ t.rx.buf = s.rx.buf) ∧
    (∀ b, (idleTick s).out.event = .arrival b → s.rx.ready = false →
      t.rx = (idleTick s).rx ∧ t.rx.buf = b ∧ t.rx.ready = true) ∧
    (∀ b, (idleTick s).out.event = .arrival b → s.rx.ready = true →
      t.rx.buf = s.rx.buf ∧ t.rx.ready = false ∧ t.rx.overflow = true)

/-- 43_uart_registers.md rule R127 with 41_uart_rx.md rules R103, R104 and 60_exceptions.md rule R173: writing 0 to
the enable bit resets the direction in the same tick, drops the frame of that tick, keeps buffer, sticky flags,
divisor and reserved byte; writing 1 enables, and changes nothing else. (The spec's decisions D16, D19, D21.) -/
def Obligations.RxConfigWriteEnablesOrResets : Prop :=
  Selects 0x400 .wrRxConfig ∧
  ∀ (w : BusWord) (s : State), s.ports.rst = false → ∃ t, exec (.wrRxConfig w) s = .next t ∧ RestAsIdleButRx s t ∧
    (w.getLsbD 0 = false →
      t.rx = { s.rx with enable := false, ready := false, phase := .idle, timer := 0, bitno := 0, shreg := 0 } ∧
      t.out.event = .none) ∧
    (w.getLsbD 0 = true → t.rx = { (idleTick s).rx with enable := true })

/-- 43_uart_registers.md rule R129: the reserved byte is always stored, the divisor only while the direction is
disabled. (That the reserved byte is not gated is the spec's decision D20.) -/
def Obligations.RxPhyConfigWriteIsGated : Prop :=
  Selects 0x404 .wrRxPhyConfig ∧
  ∀ (w : BusWord) (s : State), s.ports.rst = false → ∃ t, exec (.wrRxPhyConfig w) s = .next t ∧ RestAsIdleButRx s t ∧
    t.rx = { (idleTick s).rx with
      res := BitVec.ofNat 8 (w.toNat / 2 ^ 24)
      divisor := if s.rx.enable = true then s.rx.divisor else BitVec.ofNat 24 w.toNat }

/-- 43_uart_registers.md rule R132 with 60_exceptions.md rule R176: each sticky flag is cleared by its own bit, unless an
event of its kind happens in the same tick; `ready` is not changed by any written value. -/
def Obligations.RxStatusWriteClearsStickyFlags : Prop :=
  Selects 0x408 .wrRxStatus ∧
  ∀ (w : BusWord) (s : State), s.ports.rst = false → ∃ t, exec (.wrRxStatus w) s = .next t ∧ RestAsIdleButRx s t ∧
    t.rx = { (idleTick s).rx with
      overflow := if w.getLsbD 1 = true ∧ ¬ ((∃ b, (idleTick s).out.event = .arrival b) ∧ s.rx.ready = true)
        then false else (idleTick s).rx.overflow
      error := if w.getLsbD 2 = true ∧ (idleTick s).out.event ≠ .error then false else (idleTick s).rx.error }

/-- 43_uart_registers.md rules R133, R140: writes to RxData and TxStatus are ignored. (The spec's decisions D14 and
D35.) -/
def Obligations.IgnoredRegisterWritesChangeNothing : Prop :=
  Selects 0x40C .wrRxData ∧ Selects 0x608 .wrTxStatus ∧
  ∀ (w : BusWord) (s : State), s.ports.rst = false →
    exec (.wrRxData w) s = .next (idleTick s) ∧ exec (.wrTxStatus w) s = .next (idleTick s)

/-- 43_uart_registers.md rule R136 with 42_uart_tx.md rules R118, R119: writing 0 to the enable bit cuts the frame
and puts the line at 1; writing 1 enables, and changes nothing else. (The spec's decisions D16, D21, D34.) -/
def Obligations.TxConfigWriteEnablesOrResets : Prop :=
  Selects 0x600 .wrTxConfig ∧
  ∀ (w : BusWord) (s : State), s.ports.rst = false → ∃ t, exec (.wrTxConfig w) s = .next t ∧ RestAsIdleButTx s t ∧
    (w.getLsbD 0 = false →
      t.tx = { s.tx with enable := false, phase := .idle, timer := 0, bitno := 0, shreg := 0, line := true } ∧
      txReady t.tx = false) ∧
    (w.getLsbD 0 = true → t.tx = { (idleTick s).tx with enable := true })

/-- 43_uart_registers.md rule R138: as rule R129, for the TX direction. (The spec's decision D20 for the reserved
byte.) -/
def Obligations.TxPhyConfigWriteIsGated : Prop :=
  Selects 0x604 .wrTxPhyConfig ∧
  ∀ (w : BusWord) (s : State), s.ports.rst = false → ∃ t, exec (.wrTxPhyConfig w) s = .next t ∧ RestAsIdleButTx s t ∧
    t.tx = { (idleTick s).tx with
      res := BitVec.ofNat 8 (w.toNat / 2 ^ 24)
      divisor := if s.tx.enable = true then s.tx.divisor else BitVec.ofNat 24 w.toNat }

/-- 43_uart_registers.md rule R141 with 42_uart_tx.md rule R112: a byte written while the transmitter is ready is
loaded with its start bit on the line; a byte written while it is not is dropped. The loaded shift register is given
by its bits. (The line-layer values are the spec's decision D9, the drop its decision D17.) -/
def Obligations.TxDataWriteSendsOrIsDropped : Prop :=
  Selects 0x60C .wrTxData ∧
  ∀ (w : BusWord) (s : State), s.ports.rst = false → ∃ t, exec (.wrTxData w) s = .next t ∧ RestAsIdleButTx s t ∧
    (s.tx.enable = true → s.tx.phase = .idle →
      t.tx = { s.tx with line := false, shreg := t.tx.shreg, bitno := BitVec.ofNat 4 (frameLength s.cfg.parity - 1),
                         timer := s.tx.divisor - 1, phase := .busy } ∧
      (∀ k < 8, t.tx.shreg.getLsbD k = w.getLsbD k) ∧
      (s.cfg.parity = .none → t.tx.shreg.getLsbD 8 = true ∧ t.tx.shreg.getLsbD 9 = false) ∧
      (s.cfg.parity ≠ .none → t.tx.shreg.getLsbD 8 = parityBit s.cfg.parity (w.extractLsb' 0 8) ∧
        t.tx.shreg.getLsbD 9 = true)) ∧
    (¬ (s.tx.enable = true ∧ s.tx.phase = .idle) → t.tx = (idleTick s).tx)

/-! ### The receive direction -/

/-- 41_uart_rx.md rule R93: a running engine that waits takes a 0 on the line for a start bit, and a 1 changes
nothing. (The spec's decision D6.) -/
def Obligations.RxWaitingTakesAZeroForAStartBit : Prop :=
  ∀ s : State, s.ports.rst = false → s.rx.enable = true → s.rx.phase = .idle →
    (idleTick s).out.event = .none ∧
    (lineLevel s.ports s.tx = false → (idleTick s).rx =
      { s.rx with phase := .busy, timer := BitVec.ofNat 24 (s.rx.divisor.toNat / 2),
                  bitno := BitVec.ofNat 4 (frameLength s.cfg.parity - 1) }) ∧
    (lineLevel s.ports s.tx = true → (idleTick s).rx = s.rx)

/-- 41_uart_rx.md rule R94: a running engine inside a frame counts its timer down and looks at nothing else. (The
spec's decision D6.) -/
def Obligations.RxCountsDownInsideAFrame : Prop :=
  ∀ s : State, s.ports.rst = false → s.rx.enable = true → s.rx.phase = .busy → s.rx.timer ≠ 0 →
    (idleTick s).out.event = .none ∧ (idleTick s).rx = { s.rx with timer := BitVec.ofNat 24 (s.rx.timer.toNat - 1) }

/-- 41_uart_rx.md rules R95, R96, R98: at timer 0 a sample enters at the top; the last one ends the frame, and the
tick's event is the arrival of the eight bits above the start sample when the start sample is 0, the last is 1 and
the parity bit, if there is one, is right; else it is an error. (The spec's decisions D4 to D6 and D8.) -/
def Obligations.RxSamplesAndJudgesTheFrame : Prop :=
  ∀ s : State, s.ports.rst = false → s.rx.enable = true → s.rx.phase = .busy → s.rx.timer = 0 →
    let N := frameLength s.cfg.parity
    let u := idleTick s
    (∀ k < N - 1, u.rx.shreg.getLsbD k = s.rx.shreg.getLsbD (k + 1)) ∧
    u.rx.shreg.getLsbD (N - 1) = lineLevel s.ports s.tx ∧
    u.rx.timer = s.rx.divisor - 1 ∧
    (s.rx.bitno ≠ 0 → u.rx.bitno = s.rx.bitno - 1 ∧ u.rx.phase = .busy ∧ u.out.event = .none) ∧
    (s.rx.bitno = 0 → u.rx.phase = .idle ∧ u.rx.bitno = 0 ∧
      (u.out.event = .arrival (u.rx.shreg.extractLsb' 1 8) ∨ u.out.event = .error) ∧
      (u.out.event ≠ .error ↔ u.rx.shreg.getLsbD 0 = false ∧ u.rx.shreg.getLsbD (N - 1) = true ∧
        (s.cfg.parity = .none ∨
          u.rx.shreg.getLsbD 9 = parityBit s.cfg.parity (u.rx.shreg.extractLsb' 1 8))))

/-- 41_uart_rx.md rules R100 to R102, whatever operation is presented in the tick: an arrival into an empty buffer
is stored and announced, even against a consume; one into a full buffer sets `overflow` and is lost, and only a
consume clears `ready`; an error sets `error` and stores nothing. A flag the event does not concern changes only by
an RxStatus write. (That an error stores nothing is the spec's decision D8; what a consume in the same tick does is
its decision D16, notes/assumptions/13.md.) -/
def Obligations.RxEventsSetBufferAndFlags : Prop :=
  ∀ (op : BusOp) (p : Ports) (s : State), p.rst = false →
    let t := tick op p s
    (∀ b, t.out.event = .arrival b → s.rx.ready = false →
      t.rx.buf = b ∧ t.rx.ready = true ∧
      t.rx.overflow = (s.rx.overflow && !op.rx.clrOverflow) ∧ t.rx.error = (s.rx.error && !op.rx.clrError)) ∧
    (∀ b, t.out.event = .arrival b → s.rx.ready = true →
      t.rx.buf = s.rx.buf ∧ (t.rx.ready = true ↔ op.rx.consume = false) ∧ t.rx.overflow = true ∧
      t.rx.error = (s.rx.error && !op.rx.clrError)) ∧
    (t.out.event = .error →
      t.rx.buf = s.rx.buf ∧ (t.rx.ready = true ↔ s.rx.ready = true ∧ op.rx.consume = false) ∧
      t.rx.overflow = (s.rx.overflow && !op.rx.clrOverflow) ∧ t.rx.error = true)

/-- 41_uart_rx.md rule R90: while the direction is disabled no levels on the line, for however long, change any of it. -/
def Obligations.DisabledRxIgnoresTheLine : Prop :=
  ∀ (d : Nat) (levels : List Bool) (s : State), GoodState s → s.ports.rst = false → s.rx.enable = false →
    (driveLine d levels s).rx = s.rx

/-- 41_uart_rx.md rule R107 (c): with the line held at 1 no frame ever starts. (Derived by the spec from its
decision D6.) -/
def Obligations.RestingLineStartsNoFrame : Prop :=
  ∀ (n : Nat) (s : State), s.ports.rst = false → s.rx.enable = true → s.rx.phase = .idle →
    (holdLine n true s).rx = s.rx

/-- 41_uart_rx.md rule R107 (b): a line held at 0 ends a frame in `error` after the frame's samples, stores nothing,
and the next tick starts another frame. (Derived by the spec from its decision D6. Below a divisor of 3 this follows
the step rules only, notes/assumptions/12.md.) -/
def Obligations.BreakOnTheLineIsAnError : Prop :=
  ∀ s : State, s.ports.rst = false → s.rx.enable = true → s.rx.phase = .idle → s.rx.divisor ≠ 0 →
    let n := s.rx.divisor.toNat / 2 + 2 + (frameLength s.cfg.parity - 1) * s.rx.divisor.toNat
    (holdLine n false s).out.event = .error ∧ (holdLine n false s).rx.error = true ∧
    (holdLine n false s).rx.phase = .idle ∧ (holdLine n false s).rx.buf = s.rx.buf ∧
    (holdLine n false s).rx.ready = s.rx.ready ∧ (holdLine n false s).rx.overflow = s.rx.overflow ∧
    (holdLine (n + 1) false s).rx.phase = .busy

/-- 41_uart_rx.md rule R107 (a): a line that dips to 0 for a tick or more and is 1 again at the start-bit sample
makes the engine take a whole frame of samples and end it in `error`, with nothing stored and no overflow. (Derived
by the spec from its decision D6. Below a divisor of 3 this follows the step rules only, notes/assumptions/12.md.) -/
def Obligations.FalseStartIsAnError : Prop :=
  ∀ (k : Nat) (s : State), s.ports.rst = false → s.rx.enable = true → s.rx.phase = .idle → s.rx.divisor ≠ 0 →
    1 ≤ k → k ≤ s.rx.divisor.toNat / 2 + 1 →
    let n := s.rx.divisor.toNat / 2 + 2 + (frameLength s.cfg.parity - 1) * s.rx.divisor.toNat
    let t := holdLine (n - k) true (holdLine k false s)
    t.out.event = .error ∧ t.rx.error = true ∧ t.rx.phase = .idle ∧ t.rx.buf = s.rx.buf ∧ t.rx.ready = s.rx.ready ∧
    t.rx.overflow = s.rx.overflow

/-- 30_encoding.md rules R63, R72 and 41_uart_rx.md rules R92, R93, R96, R100 to R102, R108: with a divisor of at
least 3 a whole ten-bit frame on the line is received as its byte; one with stop 0 sets `error` and stores nothing;
a word whose first level is 1 starts no frame in that bit's time, and the rest of it is driven after it. The other
machines go on as without it. (The line layer is the spec's decisions D4 to D8; that executing a frame row means
driving its levels on the line is the model's choice, notes/assumptions/6.md.) -/
def Obligations.Frame8N1IsReceived : Prop :=
  ∀ (b : Byte) (s : State), s.cfg.parity = .none → s.ports.rst = false → s.rx.enable = true → s.rx.phase = .idle →
    3 ≤ s.rx.divisor.toNat →
    let u := idleTicks (10 * s.rx.divisor.toNat) s
    (∃ t, exec (.uartFrame8N1 (.ofByte b)) s = .next t ∧
      t.rx = { s.rx with
        buf := if s.rx.ready = true then s.rx.buf else b
        ready := true
        overflow := s.rx.overflow || s.rx.ready
        timer := s.rx.divisor - 1
        bitno := 0
        shreg := BitVec.ofNat 11 (0x200 + 2 * b.toNat) } ∧
      t.cfg = s.cfg ∧ t.tx = u.tx ∧ t.seq = u.seq ∧ t.peer = u.peer) ∧
    (∃ t, exec (.uartFrame8N1 ⟨false, b, false⟩) s = .next t ∧
      t.rx = { s.rx with error := true, phase := t.rx.phase, timer := t.rx.timer, bitno := t.rx.bitno,
                         shreg := BitVec.ofNat 11 (2 * b.toNat) } ∧
      t.cfg = s.cfg ∧ t.tx = u.tx ∧ t.seq = u.seq ∧ t.peer = u.peer) ∧
    (∀ stop : Bool, ∃ t, exec (.uartFrame8N1 ⟨true, b, stop⟩) s = .next t ∧
      (holdLine s.rx.divisor.toNat true s).rx = s.rx ∧
      t = driveLine s.rx.divisor.toNat (dataLevels b ++ [stop]) (holdLine s.rx.divisor.toNat true s) ∧
      t.cfg = s.cfg ∧ t.tx = u.tx ∧ t.seq = u.seq ∧ t.peer = u.peer)

/-- 30_encoding.md rules R64, R72 and 41_uart_rx.md rules R92, R93, R96, R98, R100 to R102 in a build with parity: a
whole eleven-bit frame with the right parity bit and stop 1 is received as its byte; one with the wrong parity bit
or with stop 0 sets `error` and stores nothing; a word whose first level is 1 starts no frame in that bit's time,
and the rest of it is driven after it. (The spec's decisions D4 to D8; notes/assumptions/6.md.) -/
def Obligations.Frame8P1IsReceivedOrItsParityErrs : Prop :=
  ∀ (b : Byte) (p : Bool) (s : State), s.cfg.parity ≠ .none → s.ports.rst = false → s.rx.enable = true →
    s.rx.phase = .idle → 3 ≤ s.rx.divisor.toNat →
    let u := idleTicks (11 * s.rx.divisor.toNat) s
    (∀ stop : Bool, ∃ t, exec (.uartFrame8P1 ⟨false, b, stop⟩ p) s = .next t ∧ t.rx.enable = true ∧
      t.rx.divisor = s.rx.divisor ∧ t.rx.res = s.rx.res ∧ (stop = true → t.rx.phase = .idle) ∧
      (p = parityBit s.cfg.parity b → stop = true →
        t.rx.buf = (if s.rx.ready = true then s.rx.buf else b) ∧ t.rx.ready = true ∧
        t.rx.overflow = (s.rx.overflow || s.rx.ready) ∧ t.rx.error = s.rx.error) ∧
      (p ≠ parityBit s.cfg.parity b ∨ stop = false →
        t.rx.buf = s.rx.buf ∧ t.rx.ready = s.rx.ready ∧ t.rx.overflow = s.rx.overflow ∧ t.rx.error = true) ∧
      t.cfg = s.cfg ∧ t.tx = u.tx ∧ t.seq = u.seq ∧ t.peer = u.peer) ∧
    (∀ stop : Bool, ∃ t, exec (.uartFrame8P1 ⟨true, b, stop⟩ p) s = .next t ∧
      (holdLine s.rx.divisor.toNat true s).rx = s.rx ∧
      t = driveLine s.rx.divisor.toNat (dataLevels b ++ [p, stop]) (holdLine s.rx.divisor.toNat true s) ∧
      t.cfg = s.cfg ∧ t.tx = u.tx ∧ t.seq = u.seq ∧ t.peer = u.peer)

/-! ### The transmit direction -/

/-- 42_uart_tx.md rules R115 to R117: inside a frame the transmitter counts, puts the next bit on the line, and
ends. (The spec's decision D9.) -/
def Obligations.TxCountsShiftsAndEnds : Prop :=
  ∀ s : State, s.ports.rst = false → s.tx.enable = true → s.tx.phase = .busy →
    (s.tx.timer ≠ 0 → (idleTick s).tx = { s.tx with timer := s.tx.timer - 1 }) ∧
    (s.tx.timer = 0 → s.tx.bitno ≠ 0 →
      (idleTick s).tx.line = s.tx.shreg.getLsbD 0 ∧ (idleTick s).tx.bitno = s.tx.bitno - 1 ∧
      (idleTick s).tx.timer = s.tx.divisor - 1 ∧ (idleTick s).tx.phase = .busy ∧
      (∀ k < frameLength s.cfg.parity - 2, (idleTick s).tx.shreg.getLsbD k = s.tx.shreg.getLsbD (k + 1)) ∧
      (idleTick s).tx.shreg.getLsbD (frameLength s.cfg.parity - 2) = true) ∧
    (s.tx.timer = 0 → s.tx.bitno = 0 → (idleTick s).tx = { s.tx with phase := .idle })

/-- 42_uart_tx.md rules R113, R114: every bit of the frame of an accepted byte stays on the line for exactly
`tx_divisor` ticks, in the order start, data least significant first, parity if any, stop. (Derived by the spec from
its decisions D4, D6, D9.) -/
def Obligations.AcceptedByteIsOnTheLineBitByBit : Prop :=
  ∀ (w : BusWord) (s : State), s.ports.rst = false → s.tx.enable = true → s.tx.phase = .idle → s.tx.divisor ≠ 0 →
    ∃ t, exec (.wrTxData w) s = .next t ∧
      ∀ k < frameLength s.cfg.parity, ∀ j < s.tx.divisor.toNat,
        some (idleTicks (k * s.tx.divisor.toNat + j) t).tx.line =
          (frameLevels s.cfg.parity (w.extractLsb' 0 8))[k]?

/-- 42_uart_tx.md rules R111, R122: after an acceptance `tx_ready` is 0 for exactly `N * tx_divisor` ticks, then 1
with the line at rest. (Derived by the spec from its decision D9.) -/
def Obligations.TxReadyReturnsAfterTheWholeFrame : Prop :=
  ∀ (w : BusWord) (s : State), s.ports.rst = false → s.tx.enable = true → s.tx.phase = .idle → s.tx.divisor ≠ 0 →
    ∃ t, exec (.wrTxData w) s = .next t ∧
      (∀ n < frameLength s.cfg.parity * s.tx.divisor.toNat, txReady (idleTicks n t).tx = false) ∧
      txReady (idleTicks (frameLength s.cfg.parity * s.tx.divisor.toNat) t).tx = true ∧
      (idleTicks (frameLength s.cfg.parity * s.tx.divisor.toNat) t).tx.line = true

/-- 42_uart_tx.md rule R123: a frame starts only by a TxData write while the transmitter is ready. -/
def Obligations.NothingIsSentThatWasNotAccepted : Prop :=
  ∀ (i : Instr) (s t : State), s.ports.rst = false → exec i s = .next t → s.tx.phase = .idle → t.tx.phase = .busy →
    ∃ w, i = .wrTxData w ∧ s.tx.enable = true

/-- 41_uart_rx.md rules R99, R108 and 70_reset_and_hazards.md rule R210: in a loopback with equal divisors of at
least 3, every byte the transmitter accepts arrives as the same byte, at the tick the spec gives, without an error.
(The spec's decisions D6, D7, D9; the loopback is notes/assumptions/25.md.) -/
def Obligations.LoopbackDeliversTheByteSent : Prop :=
  ∀ (w : BusWord) (s : State), GoodState s → s.ports.rst = false → s.ports.loopback = true →
    s.tx.enable = true → s.tx.phase = .idle → s.rx.enable = true → s.rx.phase = .idle →
    s.rx.divisor = s.tx.divisor → 3 ≤ s.tx.divisor.toNat →
    ∃ t, exec (.wrTxData w) s = .next t ∧
      let n := s.tx.divisor.toNat / 2 + 1 + (frameLength s.cfg.parity - 1) * s.tx.divisor.toNat
      (∀ m ≤ n, (idleTicks m t).out.event = .none) ∧
      (idleTicks (n + 1) t).out.event = .arrival (w.extractLsb' 0 8) ∧
      (idleTicks (n + 1) t).rx.ready = true ∧
      (idleTicks (n + 1) t).rx.buf = (if s.rx.ready = true then s.rx.buf else w.extractLsb' 0 8) ∧
      (idleTicks (n + 1) t).rx.overflow = (s.rx.overflow || s.rx.ready) ∧
      (idleTicks (n + 1) t).rx.error = s.rx.error

/-! ### Phases -/

/-- 45_arithmetic_and_control.md rule R146: the complete transition relation of the three phase registers, for every
register operation and every input. (Derived by the spec from the step rules.) -/
def Obligations.PhaseTransitionsAreTheListedOnes : Prop :=
  ∀ (op : BusOp) (p : Ports) (s : State), GoodState s →
    (p.rst = true → (tick op p s).seq.phase = .idle ∧ (tick op p s).rx.phase = .idle ∧ (tick op p s).tx.phase = .idle) ∧
    (p.rst = false →
      (tick op p s).seq.phase =
        (match s.seq.phase with
         | .idle        => if p.reqValid = true ∧ p.reqIsRead = true ∧ p.outReady = true then .sendAddress else .idle
         | .sendAddress => if p.outReady = true ∧ s.seq.aIdx = 0 then .receiveData else .sendAddress
         | .receiveData =>
           if (inOffer p s.peer).isSome = true ∧ s.seq.iCnt = s.cfg.W - 1 then .deselect else .receiveData
         | .deselect    => if p.outReady = true then .idle else .deselect) ∧
      (tick op p s).rx.phase =
        (match s.rx.phase with
         | .idle => if s.rx.enable = true ∧ op.rx.enable ≠ some false ∧ lineLevel p s.tx = false then .busy else .idle
         | .busy => if op.rx.enable = some false ∨ (s.rx.timer = 0 ∧ s.rx.bitno = 0) then .idle else .busy) ∧
      (tick op p s).tx.phase =
        (match s.tx.phase with
         | .idle => if s.tx.enable = true ∧ op.tx.enable ≠ some false ∧ op.tx.byte ≠ none then .busy else .idle
         | .busy => if op.tx.enable = some false ∨ (s.tx.timer = 0 ∧ s.tx.bitno = 0) then .idle else .busy))

/-! ### The Sequencer -/

/-- 44_qspi_sequencer.md rules R151, R152 and 30_encoding.md rule R71: the command byte is transferred when a read
request is pending and starts the transaction; without one nothing is transferred and the Sequencer stays as it is.
The flash opcode `0x03` is that byte. (Executing an item means a tick in which the peer is ready for exactly that
item: the model's choice, notes/assumptions/5.md.) -/
def Obligations.CommandByteStartsTheTransaction : Prop :=
  ∀ (i : Instr) (s : State), (i = .seqCmdRead ∨ i = .flashRead) → s.ports.rst = false → s.seq.phase = .idle →
    ∃ t, exec i s = .next t ∧ RestAsIdleButLane s t ∧
      (s.ports.reqValid = true → s.ports.reqIsRead = true →
        t.seq = { s.seq with phase := .sendAddress, aIdx := 2, result := List.replicate s.cfg.W 0 } ∧
        t.peer = { s.peer with taken := { mode := .txSingle, payload := 0x03 } :: s.peer.taken
                               sent := s.peer.sent ++ [0x03] }) ∧
      (¬ (s.ports.reqValid = true ∧ s.ports.reqIsRead = true) → t.seq = s.seq ∧ t.peer = s.peer)

/-- 44_qspi_sequencer.md rules R153, R154 and 20_memory.md rule R40: the three address bytes go most significant
first, each the byte of the address on the request port, and the last one's transfer starts `RECEIVE_DATA`; an item
with another byte is not transferred. (The live address is the spec's decision D25; the peer is ready for exactly
that item, notes/assumptions/5.md.) -/
def Obligations.AddressBytesGoMostSignificantFirst : Prop :=
  ∀ (b : Byte) (s : State), s.ports.rst = false → s.seq.phase = .sendAddress →
    (s.seq.aIdx = 2 → ∃ t, exec (.seqAddr2 b) s = .next t ∧ RestAsIdleButLane s t ∧
      (b.toNat = s.ports.reqAddress.toNat / 65536 →
        t.seq = { s.seq with aIdx := 1 } ∧ t.peer.taken = { mode := .txSingle, payload := b } :: s.peer.taken) ∧
      (b.toNat ≠ s.ports.reqAddress.toNat / 65536 → t.seq = s.seq ∧ t.peer = s.peer)) ∧
    (s.seq.aIdx = 1 → ∃ t, exec (.seqAddr1 b) s = .next t ∧ RestAsIdleButLane s t ∧
      (b.toNat = s.ports.reqAddress.toNat / 256 % 256 →
        t.seq = { s.seq with aIdx := 0 } ∧ t.peer.taken = { mode := .txSingle, payload := b } :: s.peer.taken) ∧
      (b.toNat ≠ s.ports.reqAddress.toNat / 256 % 256 → t.seq = s.seq ∧ t.peer = s.peer)) ∧
    (s.seq.aIdx = 0 → ∃ t, exec (.seqAddr0 b) s = .next t ∧ RestAsIdleButLane s t ∧
      (b.toNat = s.ports.reqAddress.toNat % 256 →
        t.seq = { s.seq with phase := .receiveData } ∧
        t.peer.taken = { mode := .txSingle, payload := b } :: s.peer.taken) ∧
      (b.toNat ≠ s.ports.reqAddress.toNat % 256 → t.seq = s.seq ∧ t.peer = s.peer))

/-- 44_qspi_sequencer.md rules R155, R156, R159: a receive offer is transferred while `o_cnt` is not `W` and not
after; an inbound byte of the same tick is stored beside it, and completion overrides the offer counter. (The
payload is the spec's decision D23; the peer is ready for exactly that item, notes/assumptions/5.md.) -/
def Obligations.ReceiveOfferAdvancesTheOfferCounter : Prop :=
  ∀ s : State, s.ports.rst = false → s.seq.phase = .receiveData →
    ∃ t, exec .seqRxOffer s = .next t ∧ RestAsIdleButLane s t ∧
      (s.seq.oCnt ≠ s.cfg.W →
        t.peer.taken = { mode := .rxData, payload := 0x00 } :: s.peer.taken ∧
        (inOffer s.ports s.peer = none → t.seq = { s.seq with oCnt := s.seq.oCnt + 1 }) ∧
        (∀ b, inOffer s.ports s.peer = some b → s.seq.iCnt ≠ s.cfg.W - 1 →
          t.seq = { s.seq with oCnt := s.seq.oCnt + 1, iCnt := s.seq.iCnt + 1
                               result := s.seq.result.set s.seq.iCnt b }) ∧
        (∀ b, inOffer s.ports s.peer = some b → s.seq.iCnt = s.cfg.W - 1 →
          t.seq = { s.seq with oCnt := 0, iCnt := 0, phase := .deselect, ack := true
                               result := s.seq.result.set s.seq.iCnt b })) ∧
      (s.seq.oCnt = s.cfg.W → t.peer.taken = s.peer.taken ∧ t.out.outValid = false)

/-- 44_qspi_sequencer.md rule R161: the deselect item ends the transaction and `ack` is cleared. (The payload is the
spec's decision D23; the peer is ready for exactly that item, notes/assumptions/5.md.) -/
def Obligations.DeselectEndsTheTransaction : Prop :=
  ∀ s : State, s.ports.rst = false → s.seq.phase = .deselect →
    ∃ t, exec .seqDeselect s = .next t ∧ RestAsIdleButLane s t ∧
      t.seq = { s.seq with phase := .idle, ack := false } ∧
      t.peer.taken = { mode := .deselect, payload := 0x00 } :: s.peer.taken

/-- 44_qspi_sequencer.md rules R157 to R159: an inbound byte is stored at the input counter in `RECEIVE_DATA`, the
`W`-th completes the transaction; in every other phase it is stalled and the tick is as without it. (The stall is
the spec's decision D24; that the byte is on the wires in this one tick is the model's choice,
notes/assumptions/5.md.) -/
def Obligations.InboundByteIsStoredInReceiveDataOnly : Prop :=
  ∀ (b : Byte) (s : State), s.ports.rst = false →
    ∃ t, exec (.seqRxByte b) s = .next t ∧ RestAsIdleButLane s t ∧
      (s.seq.phase = .receiveData → s.seq.iCnt ≠ s.cfg.W - 1 →
        t.seq = { s.seq with
          iCnt := s.seq.iCnt + 1
          result := s.seq.result.set s.seq.iCnt b
          oCnt := if s.ports.outReady = true ∧ s.seq.oCnt ≠ s.cfg.W then s.seq.oCnt + 1 else s.seq.oCnt }) ∧
      (s.seq.phase = .receiveData → s.seq.iCnt = s.cfg.W - 1 →
        t.seq = { s.seq with oCnt := 0, iCnt := 0, phase := .deselect, ack := true
                             result := s.seq.result.set s.seq.iCnt b }) ∧
      (s.seq.phase ≠ .receiveData → t.seq = (idleTick s).seq)

/-- 44_qspi_sequencer.md rules R151, R162, R165: a read request is taken in `IDLE` when the lane is ready, waits
there when it is not, and is ignored in every other phase; it stands on the port until `ack`. (That the request
stands on the port until `ack` is the model's choice after rule R162, notes/assumptions/7.md.) -/
def Obligations.ReadRequestIsTakenOnlyWhenIdle : Prop :=
  ∀ (a : FlashAddr) (s : State), s.ports.rst = false →
    ∃ t, exec (.reqRead a) s = .next t ∧ t.cfg = s.cfg ∧ t.rx = (idleTick s).rx ∧ t.tx = (idleTick s).tx ∧
      t.ports = { s.ports with reqValid := !s.seq.ack, reqIsRead := true, reqAddress := a } ∧
      (s.seq.phase = .idle → s.ports.outReady = true →
        t.seq = { s.seq with phase := .sendAddress, aIdx := 2, result := List.replicate s.cfg.W 0 }) ∧
      (s.seq.phase = .idle → s.ports.outReady = false → t.seq = s.seq) ∧
      (s.seq.phase ≠ .idle → t.seq = (idleTick s).seq)

/-- 44_qspi_sequencer.md rule R163: a write request in `IDLE` starts nothing and is never acknowledged, however long it
stands. -/
def Obligations.WriteRequestIsNeverAcknowledged : Prop :=
  ∀ (a : FlashAddr) (s : State), GoodState s → s.ports.rst = false → s.seq.phase = .idle →
    ∃ t, exec (.reqWrite a) s = .next t ∧ t.cfg = s.cfg ∧ t.rx = (idleTick s).rx ∧ t.tx = (idleTick s).tx ∧
      ∀ n, (idleTicks n t).seq = s.seq ∧ (idleTicks n t).seq.ack = false ∧ (idleTicks n t).out.outValid = false

/-- 44_qspi_sequencer.md rule R151: without a request the Sequencer idles indefinitely and transfers no item.
(notes/assumptions/7.md: the levels stand on the port.) -/
def Obligations.NoRequestIdlesIndefinitely : Prop :=
  ∀ (r : Bool) (a : FlashAddr) (s : State), GoodState s → s.ports.rst = false → s.seq.phase = .idle →
    ∃ t, exec (.reqNone r a) s = .next t ∧ t.cfg = s.cfg ∧ t.rx = (idleTick s).rx ∧ t.tx = (idleTick s).tx ∧
      ∀ n, (idleTicks n t).seq = s.seq ∧ (idleTicks n t).peer.taken = s.peer.taken

/-- 44_qspi_sequencer.md rules R159 to R161: `ack` is raised only by the `W`-th inbound byte of a transaction, and
in the tick it is 1 it is cleared again. (The tick of `ack` is the spec's decision D28.) -/
def Obligations.AckLastsExactlyOneTick : Prop :=
  ∀ (op : BusOp) (p : Ports) (s : State), GoodState s → p.rst = false →
    (s.seq.ack = true → (tick op p s).seq.ack = false) ∧
    ((tick op p s).seq.ack = true ↔
      s.seq.phase = .receiveData ∧ s.seq.iCnt = s.cfg.W - 1 ∧ (inOffer p s.peer).isSome = true)

/-- 44_qspi_sequencer.md rules R164, R166: while the neighbours keep their contracts, however they stall, every tick
keeps the lane peer in step with the Sequencer and the stored bytes equal to the flash's. (The peer's contract is
the spec's decision D24; the peer in State is notes/assumptions/10.md.) -/
def Obligations.ReadInFlightStaysInStep : Prop :=
  ∀ (a : FlashAddr) (op : BusOp) (p : Ports) (s : State), GoodState s → NeighboursKeep a p → InStep a s →
    InStep a (tick op p s)

/-- 44_qspi_sequencer.md rule R164: in the tick of `ack` the word delivered is the `W` bytes the flash holds from
the requested address on, in ascending address order, byte 0 least significant. (Derived by the spec; what the flash
holds is a free value, notes/assumptions/10.md.) -/
def Obligations.AckDeliversTheFlashBytes : Prop :=
  ∀ (a : FlashAddr) (op : BusOp) (p : Ports) (s : State), GoodState s → NeighboursKeep a p → InStep a s →
    (tick op p s).seq.ack = true →
      (tick op p s).seq.result = memRead a.toNat s.cfg.W ∧
      ∀ j < s.cfg.W, wordOfBytes (tick op p s).seq.result / 256 ^ j % 256 = (Config.flashByte (a.toNat + j)).toNat

/-- 44_qspi_sequencer.md rules R164, R168 and 30_encoding.md rule R68: with a lane peer that is always ready and
answers one tick after each offer, a read request is acknowledged `5 + W` ticks after it was taken, with the flash's
bytes, the lane has seen exactly the `5 + W` items in order, and the client has dropped its request. (Derived by the
spec; notes/assumptions/7.md and 10.md.) -/
def Obligations.ReadCompletesWithAPromptPeer : Prop :=
  ∀ (a : FlashAddr) (s : State), GoodState s → InStep a s → s.seq.phase = .idle → s.ports.rst = false →
    s.ports.outReady = true → s.ports.inValid = true → s.ports.inFromPeer = true →
    ∃ t, exec (.reqRead a) s = .next t ∧
      (∀ n < 4 + s.cfg.W, (idleTicks n t).seq.ack = false) ∧
      (idleTicks (4 + s.cfg.W) t).seq.ack = true ∧
      (idleTicks (4 + s.cfg.W) t).seq.result = memRead a.toNat s.cfg.W ∧
      (idleTicks (5 + s.cfg.W) t).seq.phase = .idle ∧ (idleTicks (5 + s.cfg.W) t).seq.ack = false ∧
      (idleTicks (5 + s.cfg.W) t).peer.taken = (transactionItems s.cfg a).reverse ++ s.peer.taken ∧
      (idleTicks (5 + s.cfg.W) t).ports.reqValid = false

/-! ### The whole machine -/

/-- Every step keeps the invariant of the machine's states, from every state that has it. -/
def Obligations.EveryStepKeepsTheInvariant : Prop :=
  ∀ s t : State, GoodState s → step s = .next t → GoodState t

/-- 10_state.md rule R29: the reset state of every build has the invariant. -/
def Obligations.ResetStateHasTheInvariant : Prop :=
  ∀ P : Params, GoodState (State.resetOf P)

/-- The build parameters are no state: no step changes them (10_state.md rule R10). -/
def Obligations.NoStepChangesTheBuild : Prop :=
  ∀ s t : State, step s = .next t → t.cfg = s.cfg

/-- 00_scope.md rule R2: the three machines never read each other's state. What one operation does to a machine is
the same in any two states that agree on that machine, on the build and on the machine's own inputs: the level of
the line for RX, nothing more for TX, and for the Sequencer the request, the outbound readiness, the inbound offer
and the lane peer. -/
def Obligations.MachinesNeverReadEachOther : Prop :=
  ∀ (i : Instr) (s s' t t' : State), isLineFrame i = false → exec i s = .next t → exec i s' = .next t' →
    s.cfg = s'.cfg → s.ports.rst = s'.ports.rst →
    (s.rx = s'.rx → lineLevel s.ports s.tx = lineLevel s'.ports s'.tx → t.rx = t'.rx) ∧
    (s.tx = s'.tx → t.tx = t'.tx) ∧
    (s.seq = s'.seq → SameLanePorts s.ports s'.ports → s.peer = s'.peer → t.seq = t'.seq)

/-- 43_uart_registers.md rule R131: a sticky flag is cleared only by a write of 1 to its bit, over all operations. -/
def Obligations.StickyFlagsAreClearedOnlyByStatusWrites : Prop :=
  ∀ (i : Instr) (s t : State), s.ports.rst = false → exec i s = .next t →
    (s.rx.overflow = true → t.rx.overflow = false → ∃ w, i = .wrRxStatus w ∧ w.getLsbD 1 = true) ∧
    (s.rx.error = true → t.rx.error = false → ∃ w, i = .wrRxStatus w ∧ w.getLsbD 2 = true)

/-- 43_uart_registers.md rule R131 with 41_uart_rx.md rules R101, R102: a sticky flag is set only by the hardware: in a tick
in which it rises, a byte arrived into a full buffer, or a frame was not good. -/
def Obligations.StickyFlagsAreSetOnlyByEvents : Prop :=
  ∀ (i : Instr) (s t : State), isLineFrame i = false → exec i s = .next t →
    (s.rx.overflow = false → t.rx.overflow = true → s.rx.ready = true ∧ ∃ b, t.out.event = .arrival b) ∧
    (s.rx.error = false → t.rx.error = true → t.out.event = .error)

/-- 70_reset_and_hazards.md rule R200: a divisor changes only by a PhyConfig write while its direction is disabled, and then
to the value written. -/
def Obligations.DivisorChangesOnlyWhileDisabled : Prop :=
  ∀ (i : Instr) (s t : State), s.ports.rst = false → exec i s = .next t →
    (t.rx.divisor ≠ s.rx.divisor →
      s.rx.enable = false ∧ ∃ w, i = .wrRxPhyConfig w ∧ t.rx.divisor.toNat = w.toNat % 2 ^ 24) ∧
    (t.tx.divisor ≠ s.tx.divisor →
      s.tx.enable = false ∧ ∃ w, i = .wrTxPhyConfig w ∧ t.tx.divisor.toNat = w.toNat % 2 ^ 24)

/-- 70_reset_and_hazards.md rule R196: between a poll and the access `ready` cannot fall by itself: only a consume or a
disable clears `rx_ready`, only an acceptance or a disable clears `tx_ready`. -/
def Obligations.ReadyFallsOnlyByAccessOrDisable : Prop :=
  ∀ (i : Instr) (s t : State), GoodState s → s.ports.rst = false → exec i s = .next t →
    (s.rx.ready = true → t.rx.ready = false →
      i = .rdRxData ∨ ∃ w, i = .wrRxConfig w ∧ w.getLsbD 0 = false) ∧
    (txReady s.tx = true → txReady t.tx = false →
      (∃ w, i = .wrTxData w) ∨ ∃ w, i = .wrTxConfig w ∧ w.getLsbD 0 = false)

/-- 30_encoding.md rule R76 and 70_reset_and_hazards.md rule R196: with a byte buffered, `getc` returns it at its
first poll and leaves `ready` clear. (The notation is the spec's decision D32.) -/
def Obligations.GetcReturnsTheBufferedByte : Prop :=
  ∀ (bound : Nat) (s : State), GoodState s → s.ports.rst = false → s.rx.ready = true →
    ∃ u, getc (bound + 1) s = some u ∧ u.out.rdata = some (BitVec.ofNat 32 s.rx.buf.toNat) ∧ u.rx.ready = false

/-- 70_reset_and_hazards.md rule R209: from a quiet state in a quiet environment no element of the hardware's state
ever changes. (The spec's decision D37.) -/
def Obligations.QuietStateNeverChanges : Prop :=
  ∀ (n : Nat) (s : State), GoodState s → Quiet s → SameHardware s (idleTicks n s)

/-- 44_qspi_sequencer.md rules R150, R151, R153, R155, R157, R160, R161 and 42_uart_tx.md rule R120: what a tick drives on
the outputs, whatever operation is presented: `ack`, `data` and `tx_line` are the registers at the start of the tick,
`in_ready` is 1 exactly in `RECEIVE_DATA`, and the outbound offer is the one of the phase. (The ports are the spec's
decision D3, the live address its decision D25, the payload `0x00` its decision D23, `data` without `ack` its decision D26,
notes/assumptions/14.md.) -/
def Obligations.DrivenOutputsAreThoseOfTheState : Prop :=
  ∀ (op : BusOp) (p : Ports) (s : State), p.rst = false →
    let o := (tick op p s).out
    o.ack = s.seq.ack ∧ o.data = s.seq.result ∧ o.txLine = s.tx.line ∧
    (o.inReady = true ↔ s.seq.phase = .receiveData) ∧
    (s.seq.phase = .idle →
      (o.outValid = true ↔ p.reqValid = true ∧ p.reqIsRead = true) ∧ o.outItem = { mode := .txSingle, payload := 0x03 }) ∧
    (s.seq.phase = .sendAddress →
      o.outValid = true ∧ o.outItem.mode = .txSingle ∧
      o.outItem.payload.toNat = p.reqAddress.toNat / 256 ^ s.seq.aIdx.toNat % 256) ∧
    (s.seq.phase = .receiveData →
      (o.outValid = true ↔ s.seq.oCnt ≠ s.cfg.W) ∧ o.outItem = { mode := .rxData, payload := 0x00 }) ∧
    (s.seq.phase = .deselect → o.outValid = true ∧ o.outItem = { mode := .deselect, payload := 0x00 })
end

