-- ==== Sys2Proof/Laws/Decode.lean ====
section
/-! SUPPORT. The small lemmas of the encodings: the register map read both ways, the width of every format, the selector of
a register operation, and the address the lane peer assembles from a command. -/

namespace Sys2Proof

/-- Every register is listed. -/
theorem Reg.mem_all (r : Reg) : r ∈ Reg.all := by cases r <;> simp [Reg.all]

/-- In a well-formed layout no two registers share an offset. -/
theorem Layout.offset_inj {L : Layout} (h : L.wf) {r r' : Reg} (e : L.offset r = L.offset r') : r = r' :=
  List.inj_on_of_nodup_map h (Reg.mem_all r) (Reg.mem_all r') e

/-- What stands at an offset stands there. -/
theorem Layout.offset_of_regAt {L : Layout} {off : RegOffset} {r : Reg} (h : L.regAt off = some r) :
    L.offset r = off := by
  have := List.find?_some h
  simpa using this

/-- In a well-formed layout the register at a register's offset is that register. -/
theorem Layout.regAt_offset {L : Layout} (h : L.wf) (r : Reg) : L.regAt (L.offset r) = some r := by
  cases hf : L.regAt (L.offset r) with
  | none =>
    have := List.find?_eq_none.mp hf r (Reg.mem_all r)
    simp at this
  | some r' => rw [Layout.offset_inj h (Layout.offset_of_regAt hf)]

/-- Where no register stands, none is found. -/
theorem Layout.regAt_eq_none {L : Layout} {off : RegOffset} (h : ∀ r, L.offset r ≠ off) : L.regAt off = none :=
  List.find?_eq_none.mpr fun r _ => by simpa using h r

/-- In a well-formed build no two registers share a bus address. -/
theorem Params.busAddress_inj {P : Params} (h : P.wf) {r r' : Reg} (e : P.busAddress r = P.busAddress r') : r = r' :=
  Layout.offset_inj h (BitVec.eq_of_toNat_eq (Nat.add_left_cancel e))

/-- This hardware's register layout is well formed. -/
theorem layout_wf : Config.layout.wf := by decide

/-! ### The fields of a selector -/

/-- The number a selector is: 1024 for a write, plus the offset. -/
theorem csrSelector_toNat (we : Bool) (off : RegOffset) : (csrSelector we off).toNat = we.toNat * 1024 + off.toNat := by
  have h := off.isLt
  have e : (BitVec.ofBool we ++ off).toNat = we.toNat * 1024 + off.toNat := by
    rw [BitVec.toNat_append, ← Nat.shiftLeft_add_eq_or_of_lt h, Nat.shiftLeft_eq]
    cases we <;> rfl
  rw [csrSelector, BitVec.toNat_setWidth, e]
  cases we <;> simp <;> omega

@[simp] theorem csrSelector_offset (we : Bool) (off : RegOffset) : (csrSelector we off).extractLsb' 0 10 = off := by
  have h := off.isLt
  apply BitVec.eq_of_toNat_eq
  rw [BitVec.extractLsb'_toNat, csrSelector_toNat]
  cases we <;> simp <;> omega

@[simp] theorem csrSelector_we (we : Bool) (off : RegOffset) : (csrSelector we off).getLsbD 10 = we := by
  have h := off.isLt
  rw [BitVec.getLsbD, csrSelector_toNat, Nat.testBit_eq_decide_div_mod_eq]
  cases we <;> simp <;> omega

@[simp] theorem csrSelector_above (we : Bool) (off : RegOffset) : (csrSelector we off).extractLsb' 11 5 = 0 := by
  have h := off.isLt
  apply BitVec.eq_of_toNat_eq
  rw [BitVec.extractLsb'_toNat, csrSelector_toNat, Nat.shiftRight_eq_div_pow]
  cases we <;> simp <;> omega

end Sys2Proof

namespace Sys2Proof.Machine

/-- The three address bytes give the address back (20_memory.md rule R40). -/
theorem commandAddress_commandBytes (a : FlashAddr) : commandAddress (commandBytes a) = a.toNat := by
  have h := a.isLt
  simp [commandAddress, commandBytes, addressByte, BitVec.extractLsb'_toNat, Nat.shiftRight_eq_div_pow]
  omega

end Sys2Proof.Machine
end

