-- ==== Sys2Proof/Laws/State.lean ====
section
/-! SUPPORT. The small lemmas of the state's updates: one per field per update, so that no later proof unfolds a tick or a
record update. -/

namespace Sys2Proof.Machine

variable (op : BusOp) (p : Ports) (s : State)

/-! ### The environment's updates -/

@[simp] theorem withPorts_cfg : (s.withPorts p).cfg = s.cfg := rfl
@[simp] theorem withPorts_rx : (s.withPorts p).rx = s.rx := rfl
@[simp] theorem withPorts_tx : (s.withPorts p).tx = s.tx := rfl
@[simp] theorem withPorts_seq : (s.withPorts p).seq = s.seq := rfl
@[simp] theorem withPorts_ports : (s.withPorts p).ports = p := rfl
@[simp] theorem withPorts_peer : (s.withPorts p).peer = s.peer := rfl
@[simp] theorem withPorts_lineSeen : (s.withPorts p).lineSeen = s.lineSeen := rfl
@[simp] theorem withPorts_out : (s.withPorts p).out = s.out := rfl
@[simp] theorem withPorts_schedule : (s.withPorts p).schedule = s.schedule := rfl

variable (l : List Slot)

@[simp] theorem withSchedule_cfg : (s.withSchedule l).cfg = s.cfg := rfl
@[simp] theorem withSchedule_rx : (s.withSchedule l).rx = s.rx := rfl
@[simp] theorem withSchedule_tx : (s.withSchedule l).tx = s.tx := rfl
@[simp] theorem withSchedule_seq : (s.withSchedule l).seq = s.seq := rfl
@[simp] theorem withSchedule_ports : (s.withSchedule l).ports = s.ports := rfl
@[simp] theorem withSchedule_peer : (s.withSchedule l).peer = s.peer := rfl
@[simp] theorem withSchedule_lineSeen : (s.withSchedule l).lineSeen = s.lineSeen := rfl
@[simp] theorem withSchedule_out : (s.withSchedule l).out = s.out := rfl
@[simp] theorem withSchedule_schedule : (s.withSchedule l).schedule = l := rfl

variable (P : Params)

@[simp] theorem withBuild_cfg : (s.withBuild P).cfg = P := rfl
@[simp] theorem withBuild_rx : (s.withBuild P).rx = s.rx := rfl
@[simp] theorem withBuild_tx : (s.withBuild P).tx = s.tx := rfl
@[simp] theorem withBuild_seq : (s.withBuild P).seq = s.seq := rfl
@[simp] theorem withBuild_ports : (s.withBuild P).ports = s.ports := rfl
@[simp] theorem withBuild_peer : (s.withBuild P).peer = s.peer := rfl
@[simp] theorem withBuild_lineSeen : (s.withBuild P).lineSeen = s.lineSeen := rfl
@[simp] theorem withBuild_out : (s.withBuild P).out = s.out := rfl
@[simp] theorem withBuild_schedule : (s.withBuild P).schedule = s.schedule := rfl

variable (v r : Bool) (a : FlashAddr)

@[simp] theorem withRequest_rst : (p.withRequest v r a).rst = p.rst := rfl
@[simp] theorem withRequest_rxLine : (p.withRequest v r a).rxLine = p.rxLine := rfl
@[simp] theorem withRequest_loopback : (p.withRequest v r a).loopback = p.loopback := rfl
@[simp] theorem withRequest_reqValid : (p.withRequest v r a).reqValid = v := rfl
@[simp] theorem withRequest_reqIsRead : (p.withRequest v r a).reqIsRead = r := rfl
@[simp] theorem withRequest_reqAddress : (p.withRequest v r a).reqAddress = a := rfl
@[simp] theorem withRequest_outReady : (p.withRequest v r a).outReady = p.outReady := rfl
@[simp] theorem withRequest_inValid : (p.withRequest v r a).inValid = p.inValid := rfl
@[simp] theorem withRequest_inPayload : (p.withRequest v r a).inPayload = p.inPayload := rfl
@[simp] theorem withRequest_inFromPeer : (p.withRequest v r a).inFromPeer = p.inFromPeer := rfl

variable (ack : Bool)

@[simp] theorem dropOnAck_rst : (dropOnAck ack p).rst = p.rst := rfl
@[simp] theorem dropOnAck_rxLine : (dropOnAck ack p).rxLine = p.rxLine := rfl
@[simp] theorem dropOnAck_loopback : (dropOnAck ack p).loopback = p.loopback := rfl
@[simp] theorem dropOnAck_reqValid : (dropOnAck ack p).reqValid = (p.reqValid && !ack) := rfl
@[simp] theorem dropOnAck_reqIsRead : (dropOnAck ack p).reqIsRead = p.reqIsRead := rfl
@[simp] theorem dropOnAck_reqAddress : (dropOnAck ack p).reqAddress = p.reqAddress := rfl
@[simp] theorem dropOnAck_outReady : (dropOnAck ack p).outReady = p.outReady := rfl
@[simp] theorem dropOnAck_inValid : (dropOnAck ack p).inValid = p.inValid := rfl
@[simp] theorem dropOnAck_inPayload : (dropOnAck ack p).inPayload = p.inPayload := rfl
@[simp] theorem dropOnAck_inFromPeer : (dropOnAck ack p).inFromPeer = p.inFromPeer := rfl

/-! ### A tick with `rst = 0` -/

@[simp] theorem runTick_cfg : (runTick op p s).cfg = s.cfg := rfl
@[simp] theorem runTick_rx : (runTick op p s).rx = rxStep s.cfg.parity op.rx (lineLevel p s.tx) s.rx := rfl
@[simp] theorem runTick_tx : (runTick op p s).tx = txStep s.cfg.parity op.tx s.tx := rfl
@[simp] theorem runTick_seq : (runTick op p s).seq =
    seqStep s.cfg (outXfer s.cfg p s.seq).isSome (inXfer p s.peer s.seq) s.seq := rfl
@[simp] theorem runTick_ports : (runTick op p s).ports = dropOnAck s.seq.ack s.ports := rfl
@[simp] theorem runTick_peer : (runTick op p s).peer =
    peerStep (outXfer s.cfg p s.seq) (inXfer p s.peer s.seq) s.peer := rfl
@[simp] theorem runTick_lineSeen : (runTick op p s).lineSeen = lineLevel p s.tx :: s.lineSeen := rfl
@[simp] theorem runTick_schedule : (runTick op p s).schedule = s.schedule := rfl
@[simp] theorem runTick_rdata : (runTick op p s).out.rdata = op.rdata := rfl
@[simp] theorem runTick_event : (runTick op p s).out.event =
    rxEvent s.cfg.parity op.rx (lineLevel p s.tx) s.rx := rfl
@[simp] theorem runTick_outValid : (runTick op p s).out.outValid = outValid s.cfg p s.seq := rfl
@[simp] theorem runTick_outItem : (runTick op p s).out.outItem = outItem p s.seq := rfl
@[simp] theorem runTick_inReady : (runTick op p s).out.inReady = inReady s.seq := rfl
@[simp] theorem runTick_ack : (runTick op p s).out.ack = s.seq.ack := rfl
@[simp] theorem runTick_data : (runTick op p s).out.data = s.seq.result := rfl
@[simp] theorem runTick_txLine : (runTick op p s).out.txLine = s.tx.line := rfl

/-! ### A tick with `rst = 1` -/

@[simp] theorem resetTick_cfg : (resetTick op p s).cfg = s.cfg := rfl
@[simp] theorem resetTick_rx : (resetTick op p s).rx = RxDir.reset s.cfg := rfl
@[simp] theorem resetTick_tx : (resetTick op p s).tx = TxDir.reset s.cfg := rfl
@[simp] theorem resetTick_seq : (resetTick op p s).seq = Sequencer.reset s.cfg := rfl
@[simp] theorem resetTick_ports : (resetTick op p s).ports = s.ports := rfl
@[simp] theorem resetTick_peer : (resetTick op p s).peer = peerReset s.peer := rfl
@[simp] theorem resetTick_lineSeen : (resetTick op p s).lineSeen = lineLevel p s.tx :: s.lineSeen := rfl
@[simp] theorem resetTick_schedule : (resetTick op p s).schedule = s.schedule := rfl
@[simp] theorem resetTick_rdata : (resetTick op p s).out.rdata = op.rdata.map fun _ => 0 := rfl
@[simp] theorem resetTick_event : (resetTick op p s).out.event = .none := rfl
@[simp] theorem resetTick_outValid : (resetTick op p s).out.outValid = false := rfl
@[simp] theorem resetTick_inReady : (resetTick op p s).out.inReady = false := rfl
@[simp] theorem resetTick_ack : (resetTick op p s).out.ack = false := rfl

/-! ### Any tick -/

/-- A tick with `rst = 0` is a running tick. -/
theorem tick_run {p : Ports} (h : p.rst = false) : tick op p s = runTick op p s := by simp [tick, h]

/-- A tick with `rst = 1` is a reset tick. -/
theorem tick_reset {p : Ports} (h : p.rst = true) : tick op p s = resetTick op p s := by simp [tick, h]

@[simp] theorem tick_cfg : (tick op p s).cfg = s.cfg := by unfold tick; split <;> rfl
@[simp] theorem tick_schedule : (tick op p s).schedule = s.schedule := by unfold tick; split <;> rfl
@[simp] theorem tick_ports_rst : (tick op p s).ports.rst = s.ports.rst := by unfold tick; split <;> rfl
@[simp] theorem tick_ports_loopback : (tick op p s).ports.loopback = s.ports.loopback := by
  unfold tick; split <;> rfl
@[simp] theorem tick_ports_rxLine : (tick op p s).ports.rxLine = s.ports.rxLine := by unfold tick; split <;> rfl

/-! ### Idle ticks -/

@[simp] theorem idleTicks_zero : idleTicks 0 s = s := rfl
theorem idleTicks_succ (n : Nat) : idleTicks (n + 1) s = idleTicks n (idleTick s) := rfl

/-- Idle ticks compose. -/
theorem idleTicks_add (m n : Nat) : idleTicks (m + n) s = idleTicks n (idleTicks m s) := by
  induction m generalizing s with
  | zero => simp
  | succ m ih => rw [Nat.succ_add, idleTicks_succ, ih, ← idleTicks_succ]

/-- The last of `n + 1` idle ticks apart. -/
theorem idleTicks_last (n : Nat) : idleTicks (n + 1) s = idleTick (idleTicks n s) := by
  rw [idleTicks_add]; rfl

@[simp] theorem idleTick_cfg : (idleTick s).cfg = s.cfg := tick_cfg ..
@[simp] theorem idleTick_rst : (idleTick s).ports.rst = s.ports.rst := tick_ports_rst ..
@[simp] theorem idleTick_schedule : (idleTick s).schedule = s.schedule := tick_schedule ..

@[simp] theorem idleTicks_cfg (n : Nat) : (idleTicks n s).cfg = s.cfg := by
  induction n generalizing s with
  | zero => rfl
  | succ n ih => rw [idleTicks_succ, ih, idleTick_cfg]

@[simp] theorem idleTicks_rst (n : Nat) : (idleTicks n s).ports.rst = s.ports.rst := by
  induction n generalizing s with
  | zero => rfl
  | succ n ih => rw [idleTicks_succ, ih, idleTick_rst]

/-! ### Levels driven on the line -/

variable (b : Bool)

@[simp] theorem lineTick_cfg : (lineTick b s).cfg = s.cfg := tick_cfg ..
@[simp] theorem lineTick_rst : (lineTick b s).ports.rst = s.ports.rst := tick_ports_rst ..

@[simp] theorem holdLine_zero : holdLine 0 b s = s := rfl
theorem holdLine_succ (n : Nat) : holdLine (n + 1) b s = holdLine n b (lineTick b s) := rfl

/-- Holding a level composes. -/
theorem holdLine_add (m n : Nat) : holdLine (m + n) b s = holdLine n b (holdLine m b s) := by
  induction m generalizing s with
  | zero => simp
  | succ m ih => rw [Nat.succ_add, holdLine_succ, ih, ← holdLine_succ]

@[simp] theorem driveLine_nil (d : Nat) : driveLine d [] s = s := rfl
@[simp] theorem driveLine_cons (d : Nat) (rest : List Bool) :
    driveLine d (b :: rest) s = driveLine d rest (holdLine d b s) := rfl

/-- A frame is driven a part at a time. -/
theorem driveLine_append (d : Nat) (xs ys : List Bool) :
    driveLine d (xs ++ ys) s = driveLine d ys (driveLine d xs s) := by
  induction xs generalizing s with
  | nil => rfl
  | cons x xs ih => simp [ih]

/-- What holds of a state and is kept by every tick of the line is kept while a level is held. -/
theorem holdLine_keeps {I : State → Prop} (step : ∀ b s, I s → I (lineTick b s)) (n : Nat) (b : Bool) (s : State)
    (h : I s) : I (holdLine n b s) := by
  induction n generalizing s with
  | zero => exact h
  | succ n ih => exact ih _ (step b s h)

/-- What holds of a state and is kept by every tick of the line is kept by a whole frame. -/
theorem driveLine_keeps {I : State → Prop} (step : ∀ b s, I s → I (lineTick b s)) (d : Nat) (l : List Bool) (s : State)
    (h : I s) : I (driveLine d l s) := by
  induction l generalizing s with
  | nil => exact h
  | cons b rest ih => exact ih _ (holdLine_keeps step d b s h)

/-- What holds of a state and is kept by every idle tick is kept by any number of them. -/
theorem idleTicks_keeps {I : State → Prop} (step : ∀ s, I s → I (idleTick s)) (n : Nat) (s : State) (h : I s) :
    I (idleTicks n s) := by
  induction n generalizing s with
  | zero => exact h
  | succ n ih => exact ih _ (step s h)

end Sys2Proof.Machine
end

