-- ==== Sys2Proof/Laws/Ops.lean ====
section
/-! SUPPORT. What each shared operation can do, said once: the engines, the register strobes, the Sequencer and the lane
peer. Later proofs cite these and do not unfold the operations. -/

namespace Sys2Proof.Machine

/-! ### The RX direction -/

/-- With no strobe the register operation changes nothing below the events, provided an event has already set the flag of
its kind. -/
theorem rxApplyOp_noStrobe (ev : RxEvent) (ready : Bool) (r : RxDir)
    (ho : (ev.isArrival && ready) = true → r.overflow = true) (he : ev.isError = true → r.error = true) :
    rxApplyOp {} ev ready r = r := by
  cases r
  simp only [rxApplyOp, clearSticky, stickyNext] at *
  simp_all

/-- What the RX engine does when it is told to hold: everything of the frame in progress goes, and `ready`. -/
@[simp] theorem rxHold_ready (r : RxDir) : (rxHold r).ready = false := rfl
@[simp] theorem rxHold_phase (r : RxDir) : (rxHold r).phase = .idle := rfl
@[simp] theorem rxHold_timer (r : RxDir) : (rxHold r).timer = 0 := rfl
@[simp] theorem rxHold_bitno (r : RxDir) : (rxHold r).bitno = 0 := rfl
@[simp] theorem rxHold_shreg (r : RxDir) : (rxHold r).shreg = 0 := rfl
@[simp] theorem rxHold_enable (r : RxDir) : (rxHold r).enable = r.enable := rfl
@[simp] theorem rxHold_divisor (r : RxDir) : (rxHold r).divisor = r.divisor := rfl
@[simp] theorem rxHold_res (r : RxDir) : (rxHold r).res = r.res := rfl
@[simp] theorem rxHold_overflow (r : RxDir) : (rxHold r).overflow = r.overflow := rfl
@[simp] theorem rxHold_error (r : RxDir) : (rxHold r).error = r.error := rfl
@[simp] theorem rxHold_buf (r : RxDir) : (rxHold r).buf = r.buf := rfl

/-- The engine writes only the line layer. -/
theorem rxEngine_frame (par : Parity) (level : Bool) (r : RxDir) :
    rxEngine par level r = { r with phase := (rxEngine par level r).phase, timer := (rxEngine par level r).timer,
                                    bitno := (rxEngine par level r).bitno, shreg := (rxEngine par level r).shreg } := by
  unfold rxEngine; split <;> split <;> (try split) <;> rfl

/-- What a running engine does in a tick: it waits, sees a start bit, counts, samples, or ends the frame. -/
theorem rxEngine_cases (par : Parity) (level : Bool) (r : RxDir) :
    (r.phase = .idle ∧ level = true ∧ rxEngine par level r = r) ∨
    (r.phase = .idle ∧ level = false ∧
      rxEngine par level r = { r with phase := .busy, timer := r.divisor >>> 1, bitno := lastBitNo par }) ∨
    (r.phase = .busy ∧ r.timer ≠ 0 ∧ rxEngine par level r = { r with timer := r.timer - 1 }) ∨
    (r.phase = .busy ∧ r.timer = 0 ∧ r.bitno ≠ 0 ∧
      rxEngine par level r =
        { r with shreg := rxShiftIn par level r.shreg, timer := r.divisor - 1, bitno := r.bitno - 1 }) ∨
    (r.phase = .busy ∧ r.timer = 0 ∧ r.bitno = 0 ∧
      rxEngine par level r =
        { r with shreg := rxShiftIn par level r.shreg, timer := r.divisor - 1, phase := .idle }) := by
  unfold rxEngine
  cases hp : r.phase <;> cases level <;> by_cases ht : r.timer = 0#24 <;> by_cases hb : r.bitno = 0#4 <;> simp [ht, hb]

/-- When a tick has an event: the engine runs, is inside a frame, and takes the last sample. -/
theorem rxEvent_ne_none (par : Parity) (c : RxCtl) (level : Bool) (r : RxDir) (h : rxEvent par c level r ≠ .none) :
    rxRuns c r = true ∧ r.phase = .busy ∧ r.timer = 0 ∧ r.bitno = 0 ∧
    rxEvent par c level r = judgeFrame par (rxShiftIn par level r.shreg) := by
  unfold rxEvent at *
  split at h
  · rename_i hc; simp_all
  · exact absurd rfl h

/-- A completed frame is an arrival of the sampled byte or an error. -/
theorem judgeFrame_cases (par : Parity) (x : BitVec 11) :
    (frameGood par x = true ∧ judgeFrame par x = .arrival (sampledByte x)) ∨
    (frameGood par x = false ∧ judgeFrame par x = .error) := by
  unfold judgeFrame; cases frameGood par x <;> simp

/-- What an event does to buffer and flags. -/
theorem rxApplyEvent_cases (ev : RxEvent) (r : RxDir) :
    (ev = .none ∧ rxApplyEvent ev r = r) ∨
    (∃ b, ev = .arrival b ∧ r.ready = false ∧ rxApplyEvent ev r = { r with buf := b, ready := true }) ∨
    (∃ b, ev = .arrival b ∧ r.ready = true ∧ rxApplyEvent ev r = { r with overflow := true }) ∨
    (ev = .error ∧ rxApplyEvent ev r = { r with error := true }) := by
  cases ev with
  | none => simp [rxApplyEvent]
  | error => simp [rxApplyEvent, raiseError]
  | arrival b => cases h : r.ready <;> simp [rxApplyEvent, raiseOverflow, h]

/-- A tick of an RX direction that does not run: held in reset, no event. -/
theorem rxStep_held (par : Parity) (c : RxCtl) (level : Bool) (r : RxDir) (h : rxRuns c r = false) :
    rxEvent par c level r = .none ∧ rxStep par c level r = rxApplyOp c .none r.ready (rxHold r) := by
  have he : rxEvent par c level r = .none := by simp [rxEvent, h]
  exact ⟨he, by simp [rxStep, he, h]⟩

/-- A tick without a register operation of an RX direction that runs: the engine and the event of the tick, nothing
else. -/
theorem rxStep_idle_run (par : Parity) (level : Bool) (r : RxDir) (h : r.enable = true) :
    rxStep par {} level r = rxApplyEvent (rxEvent par {} level r) (rxEngine par level r) := by
  have hr : rxRuns {} r = true := by simp [rxRuns, h]
  have hready : (rxEngine par level r).ready = r.ready := by rw [rxEngine_frame]
  simp only [rxStep, hr, if_true]
  apply rxApplyOp_noStrobe
  · intro h2
    rcases rxApplyEvent_cases (rxEvent par {} level r) (rxEngine par level r) with
      ⟨e, _⟩ | ⟨b, e, hb, _⟩ | ⟨b, e, _, q⟩ | ⟨e, _⟩
    · simp [e, RxEvent.isArrival] at h2
    · rw [hready] at hb; simp [hb] at h2
    · rw [q]
    · simp [e, RxEvent.isArrival] at h2
  · intro h2
    rcases rxApplyEvent_cases (rxEvent par {} level r) (rxEngine par level r) with
      ⟨e, _⟩ | ⟨b, e, _, _⟩ | ⟨b, e, _, _⟩ | ⟨_, q⟩
    · simp [e, RxEvent.isError] at h2
    · simp [e, RxEvent.isError] at h2
    · simp [e, RxEvent.isError] at h2
    · rw [q]

/-! ### The TX direction -/

@[simp] theorem txApplyOp_noStrobe (t : TxDir) : txApplyOp {} t = t := rfl

/-- A byte offered changes nothing but through the engine. -/
@[simp] theorem txApplyOp_byte (b : Option Byte) (t : TxDir) : txApplyOp { byte := b } t = t := rfl

/-- What a running transmitter does in a tick: it rests, accepts a byte, counts, puts the next bit on the line, or ends the
frame. -/
theorem txEngine_cases (par : Parity) (o : Option Byte) (t : TxDir) :
    (t.phase = .idle ∧ o = none ∧ txEngine par o t = t) ∨
    (∃ b, t.phase = .idle ∧ o = some b ∧ txEngine par o t = txAccept par b t) ∨
    (t.phase = .busy ∧ t.timer ≠ 0 ∧ txEngine par o t = { t with timer := t.timer - 1 }) ∨
    (t.phase = .busy ∧ t.timer = 0 ∧ t.bitno ≠ 0 ∧
      txEngine par o t = { t with line := t.shreg.getLsbD 0, shreg := txShiftOut par t.shreg, bitno := t.bitno - 1,
                                  timer := t.divisor - 1 }) ∨
    (t.phase = .busy ∧ t.timer = 0 ∧ t.bitno = 0 ∧ txEngine par o t = { t with phase := .idle }) := by
  unfold txEngine
  cases hp : t.phase <;> cases o <;> by_cases ht : t.timer = 0#24 <;> by_cases hb : t.bitno = 0#4 <;> simp [ht, hb]

/-- A tick of a TX direction that does not run: held in reset. -/
theorem txStep_held (par : Parity) (c : TxCtl) (t : TxDir) (h : txRuns c t = false) :
    txStep par c t = txApplyOp c (txHold t) := by simp [txStep, h]

/-- A tick without a register operation of a TX direction that runs: the engine. -/
theorem txStep_idle_run (par : Parity) (t : TxDir) (h : t.enable = true) :
    txStep par {} t = txEngine par none t := by simp [txStep, txRuns, h]

/-! ### The Sequencer -/

/-- An item is transferred exactly when it is on offer and the peer is ready. -/
theorem outXfer_isSome (P : Params) (p : Ports) (q : Sequencer) :
    (outXfer P p q).isSome = (outValid P p q && p.outReady) := by
  unfold outXfer; cases outValid P p q && p.outReady <;> rfl

/-- The item transferred is the item on offer. -/
theorem outXfer_eq_some {P : Params} {p : Ports} {q : Sequencer} {it : LaneItem} (h : outXfer P p q = some it) :
    it = outItem p q ∧ outValid P p q = true ∧ p.outReady = true := by
  unfold outXfer at h
  split at h
  · rename_i hc; simp_all
  · cases h

/-- No byte is transferred on the inbound lane outside `RECEIVE_DATA`. -/
theorem inXfer_of_not_receive {p : Ports} {r : Peer} {q : Sequencer} (h : q.phase ≠ .receiveData) :
    inXfer p r q = none := by simp [inXfer, inReady, h]

/-- In `RECEIVE_DATA` the byte on offer is transferred. -/
theorem inXfer_of_receive {p : Ports} {r : Peer} {q : Sequencer} (h : q.phase = .receiveData) :
    inXfer p r q = inOffer p r := by simp [inXfer, inReady, h]

/-- Everything a tick of the Sequencer can do. -/
theorem seqStep_cases (P : Params) (took : Bool) (gave : Option Byte) (q : Sequencer) :
    (q.phase = .idle ∧ took = false ∧ seqStep P took gave q = q) ∨
    (q.phase = .idle ∧ took = true ∧
      seqStep P took gave q = { q with aIdx := 2, result := List.replicate P.W 0, phase := .sendAddress }) ∨
    (q.phase = .sendAddress ∧ took = false ∧ seqStep P took gave q = q) ∨
    (q.phase = .sendAddress ∧ took = true ∧ q.aIdx ≠ 0 ∧ seqStep P took gave q = { q with aIdx := q.aIdx - 1 }) ∨
    (q.phase = .sendAddress ∧ took = true ∧ q.aIdx = 0 ∧ seqStep P took gave q = { q with phase := .receiveData }) ∨
    (q.phase = .receiveData ∧ gave = none ∧ seqStep P took gave q = { q with oCnt := q.oCnt + took.toNat }) ∨
    (∃ b, q.phase = .receiveData ∧ gave = some b ∧ q.iCnt ≠ P.lastByte ∧
      seqStep P took gave q =
        { q with oCnt := q.oCnt + took.toNat, iCnt := q.iCnt + 1, result := q.result.set q.iCnt b }) ∨
    (∃ b, q.phase = .receiveData ∧ gave = some b ∧ q.iCnt = P.lastByte ∧
      seqStep P took gave q =
        { q with oCnt := 0, iCnt := 0, phase := .deselect, ack := true, result := q.result.set q.iCnt b }) ∨
    (q.phase = .deselect ∧ took = false ∧ seqStep P took gave q = { q with ack := false }) ∨
    (q.phase = .deselect ∧ took = true ∧ seqStep P took gave q = { q with ack := false, phase := .idle }) := by
  obtain ⟨ph, a, o, i, res, ack⟩ := q
  cases ph <;> cases took <;> cases gave <;> by_cases ha : a = 0#2 <;> by_cases hi : i = P.lastByte <;>
    simp [seqStep, storeByte, ha, hi]

/-! ### The lane peer -/

/-- A byte given is no longer owed; taking an item is the rest of the tick. -/
theorem peerStep_none (gave : Option Byte) (r : Peer) :
    peerStep none gave r = if gave.isSome then { r with owed := r.owed.tail } else r := by
  cases gave <;> rfl

/-- The peer records every item it accepts. -/
@[simp] theorem peerTake_taken (it : LaneItem) (r : Peer) : (peerTake it r).taken = it :: r.taken := by
  unfold peerTake; cases it.mode <;> rfl

end Sys2Proof.Machine
end

