-- ==== Sys2Proof/Laws/Exec.lean ====
section
/-! SUPPORT. What every meaning amounts to, said once: an operation is refused, or is one tick under the standing levels but
for its own, or is a run of ticks with levels driven on `rx_line`. -/

namespace Sys2Proof.Machine

/-! ### The shared shapes of the meanings -/

theorem present_eq (op : BusOp) (s : State) : present op s = .next (tick op s.ports s) := rfl

theorem acceptItem_eq (place : ItemPlace) (it : LaneItem) (s : State) :
    acceptItem place it s = .next (tick noOp { s.ports with outReady := onOffer place it s.ports s } s) := rfl

theorem request_eq (valid isRead : Bool) (a : FlashAddr) (s : State) :
    request valid isRead a s = .next (idleTick (s.withPorts (s.ports.withRequest valid isRead a))) := rfl

/-- The environment an operation may put in place of the standing levels: the reset input and the line stay. -/
structure SameLevels (p q : Ports) : Prop where
  rst      : q.rst = p.rst
  rxLine   : q.rxLine = p.rxLine
  loopback : q.loopback = p.loopback

theorem SameLevels.refl (p : Ports) : SameLevels p p := ⟨rfl, rfl, rfl⟩

/-- The receiver sees the same level. -/
theorem SameLevels.lineLevel {p q : Ports} (h : SameLevels p q) (t : TxDir) : lineLevel q t = lineLevel p t := by
  simp [Machine.lineLevel, h.rxLine, h.loopback]

/-- Every operation but the line frames and the five that are refused is one tick, under levels that differ from the
standing ones in neither the reset input nor the line, on a state that differs from the standing one in its ports at
most. -/
theorem exec_one_tick {i : Instr} {s t : State} (hl : isLineFrame i = false) (h : exec i s = .next t) :
    ∃ op p q, SameLevels s.ports p ∧ SameLevels s.ports q ∧ t = tick op p (s.withPorts q) := by
  cases i
  all_goals first
    | exact Bool.noConfusion hl
    | cases h; done
    | (refine ⟨_, _, s.ports, ?_, ?_, (Host.Outcome.next.inj h).symm⟩ <;> exact ⟨rfl, rfl, rfl⟩)
    | (refine ⟨_, _, _, ?_, ?_, (Host.Outcome.next.inj h).symm⟩ <;> exact ⟨rfl, rfl, rfl⟩)

/-- A line frame drives its levels, `rx_divisor` ticks each. -/
theorem exec_line_frame {i : Instr} {s t : State} (hl : isLineFrame i = true) (h : exec i s = .next t) :
    ∃ levels, t = driveLine s.rx.divisor.toNat levels s := by
  cases i
  all_goals first
    | exact ⟨_, (Host.Outcome.next.inj h).symm⟩
    | exact Bool.noConfusion hl

/-- What holds of a state and is kept by every tick under every input is kept by every operation. -/
theorem exec_keeps {I : State → Prop} (ports : ∀ s q, I s → I (s.withPorts q))
    (step : ∀ op p s, I s → I (tick op p s)) {i : Instr} {s t : State} (hs : I s) (h : exec i s = .next t) : I t := by
  cases hl : isLineFrame i with
  | true =>
    obtain ⟨levels, rfl⟩ := exec_line_frame hl h
    exact driveLine_keeps (fun b s hs => step _ _ s hs) _ _ _ hs
  | false =>
    obtain ⟨op, p, q, -, -, rfl⟩ := exec_one_tick hl h
    exact step _ _ _ (ports _ _ hs)

/-- A step that goes on executed the operation its slot decodes to. -/
theorem step_eq_next {s t : State} (h : Machine.step s = .next t) :
    ∃ i, decode s.cfg (nextSlot s).op = .ok i ∧ exec i (loadSlot s) = .next t := by
  unfold Machine.step at h
  split at h
  · cases h
  · rename_i i hi; exact ⟨i, hi, h⟩

/-! ### The register strobes -/

/-- The last word on the RX direction's registers in a tick, field by field. -/
theorem rxApplyOp_fields (c : RxCtl) (ev : RxEvent) (ready : Bool) (r : RxDir) :
    let r' := rxApplyOp c ev ready r
    r'.enable = c.enable.getD r.enable ∧
    r'.divisor = (match c.phy with
      | none   => r.divisor
      | some w => if r.enable then r.divisor else divisorOperand w) ∧
    r'.res = (c.phy.map reservedOperand).getD r.res ∧
    r'.ready = (r.ready && !(c.consume && !(ev.isArrival && !ready))) ∧
    r'.overflow = stickyNext r.overflow c.clrOverflow (ev.isArrival && ready) ∧
    r'.error = stickyNext r.error c.clrError ev.isError ∧
    r'.buf = r.buf ∧ r'.phase = r.phase ∧ r'.timer = r.timer ∧ r'.bitno = r.bitno ∧ r'.shreg = r.shreg := by
  obtain ⟨e, p, o, x, k⟩ := c
  cases p
  · simp [rxApplyOp, clearSticky]
  · simp [rxApplyOp, clearSticky]; rfl

/-- The last word on the TX direction's registers in a tick, field by field. -/
theorem txApplyOp_fields (c : TxCtl) (t : TxDir) :
    let t' := txApplyOp c t
    t'.enable = c.enable.getD t.enable ∧
    t'.divisor = (match c.phy with
      | none   => t.divisor
      | some w => if t.enable then t.divisor else divisorOperand w) ∧
    t'.res = (c.phy.map reservedOperand).getD t.res ∧
    t'.phase = t.phase ∧ t'.timer = t.timer ∧ t'.bitno = t.bitno ∧ t'.shreg = t.shreg ∧ t'.line = t.line := by
  obtain ⟨e, p, b⟩ := c
  cases p <;> simp [txApplyOp]

/-! ### The Sequencer's inputs -/

/-- What is transferred on the outbound lane depends on the Sequencer's own inputs. -/
theorem outXfer_congr {p p' : Ports} (h : SameLanePorts p p') (P : Params) (q : Sequencer) :
    outXfer P p q = outXfer P p' q := by
  obtain ⟨h1, h2, h3, h4, -, -, -⟩ := h
  cases hp : q.phase <;> simp [outXfer, outValid, outItem, qualifies, hp, h1, h2, h3, h4]

/-- What is offered on the inbound lane depends on the Sequencer's own inputs and the peer. -/
theorem inOffer_congr {p p' : Ports} (h : SameLanePorts p p') (r : Peer) : inOffer p r = inOffer p' r := by
  obtain ⟨-, -, -, -, h5, h6, h7⟩ := h
  simp [inOffer, h5, h6, h7]

/-! ### The Sequencer's inbound side -/

/-- Storing a byte advances the input counter, or completes the transaction. -/
theorem storeByte_cases (P : Params) (b : Byte) (q : Sequencer) :
    (q.iCnt ≠ P.lastByte ∧ storeByte P b q = { q with iCnt := q.iCnt + 1, result := q.result.set q.iCnt b }) ∨
    (q.iCnt = P.lastByte ∧ storeByte P b q =
      { q with ack := true, oCnt := 0, iCnt := 0, phase := .deselect, result := q.result.set q.iCnt b }) := by
  by_cases h : q.iCnt = P.lastByte <;> simp [storeByte, h]

end Sys2Proof.Machine
end

