-- ==== Sys2Proof/Laws/PerInstr.lean ====
section
/-! SUPPORT. A family of statements made one constructor at a time: an encoded operation has no bit set above the width
spec/opcode_table.json gives its format. -/

namespace Sys2Proof.Laws.EncodeFits

/-- The bits of the encoded operation fit its format, in every build. -/
def Statement (i : Instr) : Prop := ∀ P : Params, (encode P i).bits.toNat < 2 ^ (encode P i).format.width

/-- Bits written at a width no larger than the port's stay below that width. -/
theorem bits_fit {n m : Nat} (x : BitVec n) (h : n ≤ m) : (x.setWidth 16).toNat < 2 ^ m := by
  rw [BitVec.toNat_setWidth]
  exact Nat.lt_of_le_of_lt (Nat.mod_le _ _) (Nat.lt_of_lt_of_le x.isLt (Nat.pow_le_pow_right (by decide) h))

theorem csr_fits (L : Layout) (we : Bool) (r : Reg) (w : BusWord) :
    (encodeCsr L we r w).bits.toNat < 2 ^ (encodeCsr L we r w).format.width := bits_fit (m := 11) _ (by decide)

theorem lane_fits (mode : BitVec 2) (payload : Byte) (position : BusWord) :
    (encodeLane mode payload position).bits.toNat < 2 ^ (encodeLane mode payload position).format.width :=
  bits_fit (m := 10) _ (by decide)

theorem req_fits (valid isRead : Bool) (a : FlashAddr) :
    (encodeReq valid isRead a).bits.toNat < 2 ^ (encodeReq valid isRead a).format.width := bits_fit (m := 2) _ (by decide)

theorem flash_fits (opcode : Byte) :
    (encodeFlashCmd opcode).bits.toNat < 2 ^ (encodeFlashCmd opcode).format.width := bits_fit (m := 8) _ (by decide)

theorem byte_fits (b : Byte) : (b.setWidth 16).toNat < 2 ^ Format.laneIn.width := bits_fit _ (by decide)

theorem rdRxConfig : Statement .rdRxConfig := fun _ => csr_fits _ _ _ _
theorem wrRxConfig (wdata : BusWord) : Statement (.wrRxConfig wdata) := fun _ => csr_fits _ _ _ _
theorem rdRxPhyConfig : Statement .rdRxPhyConfig := fun _ => csr_fits _ _ _ _
theorem wrRxPhyConfig (wdata : BusWord) : Statement (.wrRxPhyConfig wdata) := fun _ => csr_fits _ _ _ _
theorem rdRxStatus : Statement .rdRxStatus := fun _ => csr_fits _ _ _ _
theorem wrRxStatus (wdata : BusWord) : Statement (.wrRxStatus wdata) := fun _ => csr_fits _ _ _ _
theorem rdRxData : Statement .rdRxData := fun _ => csr_fits _ _ _ _
theorem wrRxData (wdata : BusWord) : Statement (.wrRxData wdata) := fun _ => csr_fits _ _ _ _
theorem rdTxConfig : Statement .rdTxConfig := fun _ => csr_fits _ _ _ _
theorem wrTxConfig (wdata : BusWord) : Statement (.wrTxConfig wdata) := fun _ => csr_fits _ _ _ _
theorem rdTxPhyConfig : Statement .rdTxPhyConfig := fun _ => csr_fits _ _ _ _
theorem wrTxPhyConfig (wdata : BusWord) : Statement (.wrTxPhyConfig wdata) := fun _ => csr_fits _ _ _ _
theorem rdTxStatus : Statement .rdTxStatus := fun _ => csr_fits _ _ _ _
theorem wrTxStatus (wdata : BusWord) : Statement (.wrTxStatus wdata) := fun _ => csr_fits _ _ _ _
theorem rdTxData : Statement .rdTxData := fun _ => csr_fits _ _ _ _
theorem wrTxData (wdata : BusWord) : Statement (.wrTxData wdata) := fun _ => csr_fits _ _ _ _
theorem seqCmdRead : Statement .seqCmdRead := fun _ => lane_fits _ _ _
theorem seqAddr2 (payload : Byte) : Statement (.seqAddr2 payload) := fun _ => lane_fits _ _ _
theorem seqAddr1 (payload : Byte) : Statement (.seqAddr1 payload) := fun _ => lane_fits _ _ _
theorem seqAddr0 (payload : Byte) : Statement (.seqAddr0 payload) := fun _ => lane_fits _ _ _
theorem seqRxOffer : Statement .seqRxOffer := fun _ => lane_fits _ _ _
theorem seqDeselect : Statement .seqDeselect := fun _ => lane_fits _ _ _
theorem seqRxByte (payload : Byte) : Statement (.seqRxByte payload) := fun _ => byte_fits _
theorem uartFrame8N1 (data : FramedByte) : Statement (.uartFrame8N1 data) := fun _ => bits_fit (m := 11) _ (by decide)
theorem uartFrame8P1 (data : FramedByte) (parityBit : Bool) : Statement (.uartFrame8P1 data parityBit) := fun _ => bits_fit (m := 11) _ (by decide)
theorem reqRead (address : FlashAddr) : Statement (.reqRead address) := fun _ => req_fits _ _ _
theorem reqWrite (address : FlashAddr) : Statement (.reqWrite address) := fun _ => req_fits _ _ _
theorem reqNone (isRead : Bool) (address : FlashAddr) : Statement (.reqNone isRead address) := fun _ => req_fits _ _ _
theorem flashRead : Statement .flashRead := fun _ => flash_fits _
theorem flashUnused0B : Statement .flashUnused0B := fun _ => flash_fits _
theorem flashUnused3B : Statement .flashUnused3B := fun _ => flash_fits _
theorem flashUnused6B : Statement .flashUnused6B := fun _ => flash_fits _
theorem flashUnusedBB : Statement .flashUnusedBB := fun _ => flash_fits _
theorem flashUnusedEB : Statement .flashUnusedEB := fun _ => flash_fits _

end Sys2Proof.Laws.EncodeFits
end

