-- ==== Sys2Proof/Tests/Slice0.lean ====
section
/-! SUPPORT. The model's own tests: ill-formed operations, one word a constructor written out from the spec's encodings, the
spec's worked examples a step at a time, and a witness for the hypotheses of every statement. Expected values come from
30_encoding.md, 43_uart_registers.md and 95_test_vectors.md. -/

namespace Sys2Proof.Tests

open Sys2Proof.Machine

/-! ### States for the tests -/

/-- This hardware with another parity and word width. -/
def build (par : Parity) (lastByte : Nat) : Params := { Config.thisHardware with parity := par, lastByte := lastByte }

/-- Both directions enabled and idle, with a divisor. -/
def live (par : Parity) (d : Divisor) : State :=
  let s := State.resetOf (build par 3)
  { s with rx := { s.rx with enable := true, divisor := d }, tx := { s.tx with enable := true, divisor := d } }

/-- A receiver in the last sample of the frame of `0x61` (`0x2C2` once the level is shifted in), with the buffer empty or
holding `0x7F`. -/
def completing (level ready : Bool) : State :=
  let s := live .none 4
  { s with rx := { s.rx with phase := .busy, shreg := 0x184, ready := ready, buf := if ready then 0x7F else 0 }
           ports := { Ports.quiet with rxLine := level } }

/-- A receiver with all three status bits set. -/
def flagged : State :=
  let s := live .none 4
  { s with rx := { s.rx with ready := true, overflow := true, error := true, buf := 0x61 } }

/-- A transmitter inside the frame of `0x61` at divisor 4 (95_test_vectors.md V-TX1). -/
def sending (timer : BitVec 24) (bitno : BitVec 4) (shreg : BitVec 10) (line : Bool) : State :=
  let s := live .none 4
  { s with tx := { s.tx with phase := .busy, timer := timer, bitno := bitno, shreg := shreg, line := line } }

/-- The Sequencer at a place of a read of `0xABCDEF`, with the request standing. -/
def reading (lastByte : Nat) (phase : SeqPhase) (aIdx : BitVec 2) (oCnt iCnt : Nat) (result : List Byte) : State :=
  let s := State.resetOf (build .none lastByte)
  { s with seq := { s.seq with phase := phase, aIdx := aIdx, oCnt := oCnt, iCnt := iCnt, result := result }
           ports := Ports.quiet.withRequest true true 0xABCDEF }

/-- The result word `EF BE AD 00`, three bytes in. -/
def threeBytes : State := reading 3 .receiveData 0 4 3 [0xEF, 0xBE, 0xAD, 0x00]

/-- The reset input at 1. -/
def underReset : State := flagged.withPorts { Ports.quiet with rst := true }

/-- A lane peer that is ready, answers from the flash, and is owed nothing. -/
def prompt : State := State.reset.withPorts { Ports.quiet with outReady := true, inValid := true, inFromPeer := true }

/-- A field of the state after an instruction. -/
def afterField {α : Type} (i : Instr) (s : State) (f : State → α) : Option α := (after i s).map f

/-! ### Well-formedness refuses what a build does not have -/

theorem test_wf_refuses_8n1_with_parity : Instr.wf (build .even 3) (.uartFrame8N1 (.ofByte 0x61)) = false := by decide
theorem test_wf_refuses_8p1_without_parity : Instr.wf (build .none 3) (.uartFrame8P1 (.ofByte 0x61) true) = false := by decide
theorem test_wf_accepts_8n1 : Instr.wf Config.thisHardware (.uartFrame8N1 (.ofByte 0x61)) = true := by decide
theorem test_wf_refuses_overlapping_registers : ¬ ({ Config.layout with phyConfig := 0x200 } : Layout).wf := by decide

theorem test_bus_address : ({ Config.thisHardware with uartBase := 0x02000000 } : Params).busAddress .txData = 0x0200020C := by
  decide

/-- 95_test_vectors.md S10. -/
theorem test_divisor_of_115200_baud : divisorFor Config.clkHz 115200 = 417 := by decide

/-! ### One word a constructor (30_encoding.md rules R61 to R71) -/

/-- Decoding a register operation of this hardware. -/
def csr (selector : BitVec 16) (wdata : BusWord) : Except Reject Instr :=
  decode Config.thisHardware { format := .csr, bits := selector, operand := wdata }

/-- Decoding the bits of another format, with the operand beside them. -/
def port (f : Format) (bits : BitVec 16) (operand : BusWord) : Except Reject Instr :=
  decode Config.thisHardware { format := f, bits := bits, operand := operand }

theorem test_decode_rd_rx_config : csr 0b00000000000 0 = .ok .rdRxConfig := rfl
theorem test_decode_wr_rx_config : csr 0b10000000000 1 = .ok (.wrRxConfig 1) := rfl
theorem test_decode_rd_rx_phyconfig : csr 0b00000000100 0 = .ok .rdRxPhyConfig := rfl
theorem test_decode_wr_rx_phyconfig : csr 0b10000000100 0x1A1 = .ok (.wrRxPhyConfig 417) := rfl
theorem test_decode_rd_rx_status : csr 0b00000001000 0 = .ok .rdRxStatus := rfl
theorem test_decode_wr_rx_status : csr 0b10000001000 6 = .ok (.wrRxStatus 6) := rfl
theorem test_decode_rd_rx_data : csr 0b00000001100 0 = .ok .rdRxData := rfl
theorem test_decode_wr_rx_data : csr 0b10000001100 7 = .ok (.wrRxData 7) := rfl
theorem test_decode_rd_tx_config : csr 0b01000000000 0 = .ok .rdTxConfig := rfl
theorem test_decode_wr_tx_config : csr 0b11000000000 1 = .ok (.wrTxConfig 1) := rfl
theorem test_decode_rd_tx_phyconfig : csr 0b01000000100 0 = .ok .rdTxPhyConfig := rfl
theorem test_decode_wr_tx_phyconfig : csr 0b11000000100 8 = .ok (.wrTxPhyConfig 8) := rfl
theorem test_decode_rd_tx_status : csr 0b01000001000 0 = .ok .rdTxStatus := rfl
theorem test_decode_wr_tx_status : csr 0b11000001000 1 = .ok (.wrTxStatus 1) := rfl
theorem test_decode_rd_tx_data : csr 0b01000001100 0 = .ok .rdTxData := rfl
theorem test_decode_wr_tx_data : csr 0b11000001100 0x61 = .ok (.wrTxData 0x61) := rfl
theorem test_decode_seq_cmd_read : port .lane 0b0100000011 0 = .ok .seqCmdRead := rfl
theorem test_decode_seq_addr2 : port .lane 0b0110101011 1 = .ok (.seqAddr2 0xAB) := rfl
theorem test_decode_seq_addr1 : port .lane 0b0111001101 2 = .ok (.seqAddr1 0xCD) := rfl
theorem test_decode_seq_addr0 : port .lane 0b0111101111 3 = .ok (.seqAddr0 0xEF) := rfl
theorem test_decode_seq_rx_offer : port .lane 0b1000000000 4 = .ok .seqRxOffer := rfl
theorem test_decode_seq_deselect : port .lane 0b0000000000 8 = .ok .seqDeselect := rfl
theorem test_decode_seq_rx_byte : port .laneIn 0b11101111 0 = .ok (.seqRxByte 0xEF) := rfl
theorem test_decode_frame_8n1 : port .line 0b1011000010 0 = .ok (.uartFrame8N1 (.ofByte 0x61)) := rfl
theorem test_decode_frame_8p1 : decode (build .even 3) { format := .line, bits := 0b11011000010, operand := 0 } =
    .ok (.uartFrame8P1 (.ofByte 0x61) true) := rfl
theorem test_decode_req_read : port .req 0b11 0x000100 = .ok (.reqRead 0x000100) := rfl
theorem test_decode_req_write : port .req 0b10 0x000100 = .ok (.reqWrite 0x000100) := rfl
theorem test_decode_req_none : port .req 0b00 0xFF000100 = .ok (.reqNone false 0x000100) := rfl
theorem test_decode_flash_read : port .flashCmd 0b00000011 0 = .ok .flashRead := rfl
theorem test_decode_flash_unused : port .flashCmd 0b00001011 0 = .ok .flashUnused0B ∧
    port .flashCmd 0b00111011 0 = .ok .flashUnused3B ∧ port .flashCmd 0b01101011 0 = .ok .flashUnused6B ∧
    port .flashCmd 0b10111011 0 = .ok .flashUnusedBB ∧ port .flashCmd 0b11101011 0 = .ok .flashUnusedEB :=
  ⟨rfl, rfl, rfl, rfl, rfl⟩

/-- 30_encoding.md rule R72 (95_test_vectors.md V-RX3): a frame with stop 0 is a line frame, in a build with parity too. -/
theorem test_decode_stop_0 : port .line 0x0C2 0 = .ok (.uartFrame8N1 ⟨false, 0x61, false⟩) ∧
    decode (build .even 3) { format := .line, bits := 0x2C2, operand := 0 } =
      .ok (.uartFrame8P1 ⟨false, 0x61, false⟩ true) := ⟨rfl, rfl⟩

/-- An offset inside a register's slot, a hole, bits beyond the format (an
eleven-bit frame without parity among them), lane mode 3, and an unlisted opcode are refused. -/
theorem test_decode_refuses : csr 0x001 0 = .error .csrOffsetUndefined ∧ csr 0x410 0 = .error .csrOffsetUndefined ∧
    csr 0x800 0 = .error .bitsAboveFormat ∧ port .line 0b11011000010 0 = .error .bitsAboveFormat ∧ port .lane 0x300 0 = .error .laneModeThree ∧
    port .flashCmd 0x9F 0 = .error .flashOpcodeUnlisted :=
  ⟨rfl, rfl, rfl, rfl, rfl, rfl⟩

theorem test_table_word_wr_tx_data : decodeTableWord 11 0x60C = some (.wrTxData 0) := by decide
theorem test_table_word_frame : decodeTableWord 10 0x2C2 = some (.uartFrame8N1 (.ofByte 0x61)) ∧
    decodeTableWord 10 0x0C2 = some (.uartFrame8N1 ⟨false, 0x61, false⟩) := by decide
theorem test_table_word_frame_8p1 : decodeTableWord 16 0x6C2 = some (.uartFrame8P1 (.ofByte 0x61) true) := by decide
theorem test_table_word_req : decodeTableWord 2 3 = some (.reqRead 0) := by decide

/-- Right after reset a placed word is the instruction of the next step. -/
theorem test_fetch_word_runs : step (State.reset.withFetchWord 11 0x604) = exec (.wrTxPhyConfig 0) State.reset := rfl
theorem test_fetch_word_runs_8p1 : step (State.reset.withFetchWord 11 0x6C2) =
    exec (.uartFrame8P1 (.ofByte 0x61) true) (State.reset.withBuild { Config.thisHardware with parity := .even }) := rfl

/-! ### Register operations (the examples of 43_uart_registers.md) -/

theorem test_rd_rx_config_after_reset : afterField .rdRxConfig State.reset (·.out.rdata) = some (some 0x00) := by decide
theorem test_rd_rx_config_enabled : afterField .rdRxConfig flagged (·.out.rdata) = some (some 0x01) := by decide
theorem test_wr_rx_config_ff : afterField (.wrRxConfig 0xFF) State.reset (·.rx.enable) = some true := by decide
/-- 95_test_vectors.md V-RX11. -/
theorem test_wr_rx_config_0 : afterField (.wrRxConfig 0) flagged (fun t => (t.rx.ready, t.rx.buf, t.rx.overflow)) =
    some (false, 0x61, true) := by decide
theorem test_rd_rx_phyconfig_after_reset :
    afterField .rdRxPhyConfig State.reset (·.out.rdata) = some (some 0x000001A1) := by decide
theorem test_wr_rx_phyconfig_gated : afterField (.wrRxPhyConfig 0xAB000010) (live .none 417)
    (fun t => (t.rx.res, t.rx.divisor)) = some (0xAB, 417) := by decide
theorem test_rd_rx_status : afterField .rdRxStatus flagged (·.out.rdata) = some (some 0x07) := by decide
theorem test_wr_rx_status_02 : (((after (.wrRxStatus 0x02) flagged).bind (after .rdRxStatus)).map (·.out.rdata)) =
    some (some 0x05) := by decide
theorem test_wr_rx_status_01 : afterField (.wrRxStatus 0x01) flagged (·.rx) = some flagged.rx := by decide
theorem test_rd_rx_data : afterField .rdRxData flagged (fun t => (t.out.rdata, t.rx.ready)) =
    some (some 0x61, false) := by decide
theorem test_wr_rx_data_ignored : afterField (.wrRxData 0x55) flagged (·.rx) = some flagged.rx := by decide
theorem test_rd_tx_config : afterField .rdTxConfig flagged (·.out.rdata) = some (some 0x01) := by decide
theorem test_wr_tx_config_1 : (((after (.wrTxConfig 1) State.reset).bind (after .rdTxStatus)).map (·.out.rdata)) =
    some (some 0x01) := by decide
/-- 95_test_vectors.md V-TX3: the cut frame. -/
theorem test_wr_tx_config_0 : afterField (.wrTxConfig 0) (sending 1 6 0x1C0 false) (fun t => (t.tx.line, t.tx.phase)) =
    some (true, .idle) := by decide
/-- 95_test_vectors.md P3, ticks 0, 4 and 5. -/
theorem test_tx_phyconfig : ((((after (.wrTxPhyConfig 0x55000004) State.reset).bind (after (.wrTxConfig 1))).bind
    (after (.wrTxPhyConfig 0xAA000008))).bind (after .rdTxPhyConfig)).map (·.out.rdata) = some (some 0xAA000004) := by
  decide
theorem test_rd_tx_status_disabled : afterField .rdTxStatus State.reset (·.out.rdata) = some (some 0x00) := by decide
theorem test_wr_tx_status_ignored : afterField (.wrTxStatus 0xFF) flagged (·.tx) = some flagged.tx := by decide
theorem test_rd_tx_data : afterField .rdTxData (sending 3 9 0x161 false) (·.out.rdata) = some (some 0x00) := by decide
/-- 95_test_vectors.md V-TX1, tick 5. -/
theorem test_wr_tx_data : afterField (.wrTxData 0x61) (live .none 4)
    (fun t => (t.tx.phase, t.tx.timer, t.tx.bitno, t.tx.shreg, t.tx.line)) = some (.busy, 3, 9, 0x161, false) := by
  decide
/-- 95_test_vectors.md V-TX4: odd parity. -/
theorem test_wr_tx_data_odd : afterField (.wrTxData 0x61) (live .odd 2) (·.tx.shreg) = some 0x261 := by decide

/-! ### The line (95_test_vectors.md V-RX1, V-RX3, V-RX6, V-RX7, V-TX1) -/

theorem test_start_bit : (idleTick ((live .none 4).withPorts { Ports.quiet with rxLine := false })).rx =
    { (live .none 4).rx with phase := .busy, timer := 2, bitno := 9 } := by decide
theorem test_good_frame : (idleTick (completing true false)).out.event = .arrival 0x61 ∧
    (idleTick (completing true false)).rx.shreg = 0x2C2 ∧ (idleTick (completing true false)).rx.timer = 3 := by decide
theorem test_bad_stop : (idleTick (completing false false)).out.event = .error ∧
    (idleTick (completing false false)).rx.shreg = 0x0C2 ∧ (idleTick (completing false false)).rx.buf = 0 := by decide
theorem test_tx_next_bit : (idleTick (sending 0 9 0x161 false)).tx = (sending 3 8 0x1B0 true).tx := by decide
theorem test_tx_frame_end : (idleTick (sending 0 0 0x1FF true)).tx.phase = .idle := by decide
theorem test_frame_8n1 : afterField (.uartFrame8N1 (.ofByte 0x55)) (live .none 3) (fun t => (t.rx.buf, t.rx.ready, t.rx.phase)) =
    some (0x55, true, .idle) := by decide +kernel
/-- The bad stop bit of 95_test_vectors.md V-RX3. -/
theorem test_frame_8n1_stop_0 : afterField (.uartFrame8N1 ⟨false, 0x61, false⟩) (live .none 3)
    (fun t => (t.rx.ready, t.rx.buf, t.rx.error, t.rx.shreg)) = some (false, 0, true, 0x0C2) := by decide +kernel
theorem test_frame_8p1 : afterField (.uartFrame8P1 (.ofByte 0x61) true) (live .even 3) (fun t => (t.rx.buf, t.rx.error)) =
    some (0x61, false) := by decide +kernel
theorem test_frame_8p1_wrong_parity : afterField (.uartFrame8P1 (.ofByte 0x61) false) (live .even 3)
    (fun t => (t.rx.ready, t.rx.error)) = some (false, true) := by decide +kernel

/-! ### The Sequencer (95_test_vectors.md V-LANE5, V-SEQ1, P4, V-SEQ7) -/

theorem test_cmd_read : afterField .seqCmdRead (reading 3 .idle 0 0 0 [9, 9, 9, 9])
    (fun t => (t.seq.phase, t.seq.aIdx, t.seq.result)) = some (.sendAddress, 2, [0, 0, 0, 0]) := by decide
theorem test_addr2 : afterField (.seqAddr2 0xAB) (reading 3 .sendAddress 2 0 0 [0, 0, 0, 0]) (·.seq.aIdx) = some 1 := by
  decide
theorem test_addr1_other_byte_stalls :
    afterField (.seqAddr1 0xAB) (reading 3 .sendAddress 1 0 0 [0, 0, 0, 0]) (·.seq.aIdx) = some 1 := by decide
theorem test_addr1 : afterField (.seqAddr1 0xCD) (reading 3 .sendAddress 1 0 0 [0, 0, 0, 0]) (·.seq.aIdx) = some 0 := by
  decide
theorem test_addr0 : afterField (.seqAddr0 0xEF) (reading 3 .sendAddress 0 0 0 [0, 0, 0, 0]) (·.seq.phase) =
    some .receiveData := by decide
theorem test_rx_offer : afterField .seqRxOffer (reading 3 .receiveData 0 3 0 [0, 0, 0, 0]) (·.seq.oCnt) = some 4 := by
  decide
theorem test_rx_byte_last : afterField (.seqRxByte 0xDE) threeBytes
    (fun t => (wordOfBytes t.seq.result, t.seq.ack, t.seq.phase)) = some (0xDEADBEEF, true, .deselect) := by decide
theorem test_rx_byte_w1 : afterField (.seqRxByte 0x9F) (reading 0 .receiveData 0 1 0 [0])
    (fun t => (t.seq.result, t.seq.ack)) = some ([0x9F], true) := by decide
theorem test_deselect : afterField .seqDeselect (reading 3 .deselect 0 0 0 [1, 2, 3, 4])
    (fun t => (t.seq.phase, t.peer.sent)) = some (.idle, []) := by decide
theorem test_req_read : afterField (.reqRead 0x000100) prompt (fun t => (t.seq.phase, t.ports.reqAddress)) =
    some (.sendAddress, 0x000100) := by decide
theorem test_req_write : afterField (.reqWrite 0x000100) prompt (fun t => (t.seq, t.out.outValid)) =
    some (prompt.seq, false) := by decide
theorem test_req_none : afterField (.reqNone true 0) prompt (fun t => (t.seq, t.peer)) =
    some (prompt.seq, prompt.peer) := by decide
theorem test_flash_read : afterField .flashRead (reading 3 .idle 0 0 0 [0, 0, 0, 0]) (·.peer.sent) = some [0x03] := by
  decide
theorem test_flash_unused : exec .flashUnusedEB State.reset = .refused (.flashOpcodeNeverEmitted 0xEB) := rfl

/-! ### Witnesses: states and operands that meet the hypotheses of each statement, a boundary value a clause -/

theorem good_live_none : GoodState (live .none 3) := ⟨by decide, by decide, by decide⟩
theorem good_live_even : GoodState (live .even 3) := ⟨by decide, by decide, by decide⟩
theorem good_flagged : GoodState flagged := ⟨by decide, by decide, by decide⟩
theorem good_completing : GoodState (completing true true) := ⟨by decide, by decide, by decide⟩
theorem good_threeBytes : GoodState threeBytes := ⟨by decide, by decide, by decide⟩
theorem good_reset : GoodState State.reset := ⟨by decide, by decide, by decide⟩
theorem good_prompt : GoodState prompt := ⟨by decide, by decide, by decide⟩

/-- A slot with a register operation at an offset. -/
def slotAt (selector : BitVec 16) : Slot :=
  { ports := Ports.quiet, op := { format := .csr, bits := selector, operand := 0 } }

theorem witness_DecodeGivesBackEveryEncodedOperation : Config.thisHardware.wf ∧
    Instr.wf Config.thisHardware (.uartFrame8N1 ⟨true, 0xFF, false⟩) = true ∧
    (0x3FF : BitVec 16).toNat < 2 ^ frameLength .none ∧ 2 ^ frameLength .none ≤ (0x400 : BitVec 16).toNat ∧
    (0x7FF : BitVec 16).toNat < 2 ^ frameLength .odd ∧ 2 ^ frameLength .odd ≤ (0x800 : BitVec 16).toNat ∧
    ({ build .odd 0 with layout := { Config.layout with data := 0x3FC, txBlock := 0x100 } } : Params).wf := by decide

theorem witness_DecodedOperationHasTheBitsRead :
    decode Config.thisHardware { format := .lane, bits := 0x1CD, operand := 2 } = .ok (.seqAddr1 0xCD) := rfl

/-- The first hole, its last offset, and the last offset of all. -/
theorem witness_UndefinedRegisterOffsetIsRefused :
    (∀ r, Config.layout.offset r ≠ (slotAt 0x001).op.bits.extractLsb' 0 10) ∧
    (∀ r, Config.layout.offset r ≠ (slotAt 0x5FF).op.bits.extractLsb' 0 10) ∧
    (∀ r, Config.layout.offset r ≠ (slotAt 0x7FF).op.bits.extractLsb' 0 10) ∧
    (slotAt 0x7FF).op.bits.toNat < 2048 ∧
    (State.reset.withSchedule [slotAt 0x7FF]).schedule = [slotAt 0x7FF] ∧ (slotAt 0x7FF).op.format = .csr := by
  refine ⟨?_, ?_, ?_, by decide, by decide, by decide⟩ <;> (intro r; cases r <;> decide)

theorem witness_StepRunsTheDecodedOperation :
    (State.reset.withSchedule [slotAt 0x00C]).schedule = [slotAt 0x00C] ∧
    decode Config.thisHardware (slotAt 0x00C).op = .ok .rdRxData ∧
    decode Config.thisHardware (slotAt 0x00D).op = .error .csrOffsetUndefined := ⟨rfl, rfl, rfl⟩

theorem witness_UnscheduledStepIsAnIdleTick : State.reset.schedule = [] := rfl

theorem witness_EveryOtherOperationAlwaysCompletes :
    isUnusedOpcode .flashRead = false ∧ isUnusedOpcode (.wrTxData 0) = false := by decide

/-- An operation of one tick, and a frame at the smallest divisor. -/
theorem witness_ResetTickLoadsEveryResetValue : underReset.ports.rst = true ∧ TakesATick .rdRxData underReset ∧
    TakesATick (.uartFrame8N1 (.ofByte 0x61)) ((live .none 1).withPorts { Ports.quiet with rst := true }) := by decide

/-- A read, an inbound byte, and a frame. -/
theorem witness_ResetTickDrivesNothing :
    (underReset.ports.rst = true ∧ TakesATick .rdRxData underReset ∧ isRegisterRead .rdRxData = true) ∧
    ((threeBytes.withPorts { threeBytes.ports with rst := true }).ports.rst = true ∧
      TakesATick (.seqRxByte 1) (threeBytes.withPorts { threeBytes.ports with rst := true })) ∧
    TakesATick (.uartFrame8N1 (.ofByte 0x61)) underReset := by decide

/-- 70_reset_and_hazards.md rule R191: a read presented under reset is lost and returns 0. -/
theorem test_read_under_reset : afterField .rdRxData underReset (fun t => (t.out.rdata, t.rx.buf)) = some (some 0, 0) := by
  decide

theorem witness_RxReadsReturnFieldsAndChangeNothing : flagged.ports.rst = false := rfl
theorem witness_TxReadsReturnFieldsAndChangeNothing : (sending 3 9 0x161 false).ports.rst = false := rfl

/-- No arrival, an arrival into an empty buffer, an arrival into a full one. -/
theorem witness_RxDataReadConsumesTheByte :
    (flagged.ports.rst = false ∧ (idleTick flagged).out.event = .none) ∧
    ((completing true false).ports.rst = false ∧ (idleTick (completing true false)).out.event = .arrival 0x61 ∧
      (completing true false).rx.ready = false) ∧
    ((completing true true).ports.rst = false ∧ (idleTick (completing true true)).out.event = .arrival 0x61 ∧
      (completing true true).rx.ready = true) := by decide

/-- The last sample of a frame, with a 0 and with a 1 written. -/
theorem witness_RxConfigWriteEnablesOrResets : (completing true true).ports.rst = false ∧
    (0xFFFFFFFE : BusWord).getLsbD 0 = false ∧ (0x00000001 : BusWord).getLsbD 0 = true := by decide

theorem witness_RxPhyConfigWriteIsGated : (live .none 3).ports.rst = false ∧ (live .none 3).rx.enable = true ∧
    State.reset.ports.rst = false ∧ State.reset.rx.enable = false := by decide

/-- Both flags set beforehand, an arrival into a full buffer, an error. -/
theorem witness_RxStatusWriteClearsStickyFlags : flagged.ports.rst = false ∧
    (idleTick (completing true true)).out.event = .arrival 0x61 ∧ (completing true true).rx.ready = true ∧
    (idleTick (completing false true)).out.event = .error := by decide

theorem witness_IgnoredRegisterWritesChangeNothing : flagged.ports.rst = false := rfl

theorem witness_TxConfigWriteEnablesOrResets : (sending 1 6 0x1C0 false).ports.rst = false ∧
    (0x00000000 : BusWord).getLsbD 0 = false ∧ (0xFFFFFFFF : BusWord).getLsbD 0 = true := by decide

theorem witness_TxPhyConfigWriteIsGated : (live .none 3).ports.rst = false ∧ (live .none 3).tx.enable = true ∧
    State.reset.ports.rst = false ∧ State.reset.tx.enable = false := by decide

/-- Ready, busy and disabled, without parity and with. -/
theorem witness_TxDataWriteSendsOrIsDropped :
    ((live .none 3).ports.rst = false ∧ (live .none 3).tx.enable = true ∧ (live .none 3).tx.phase = .idle ∧
      (live .none 3).cfg.parity = .none) ∧
    ((live .odd 3).tx.enable = true ∧ (live .odd 3).tx.phase = .idle ∧ (live .odd 3).cfg.parity ≠ .none) ∧
    ¬ ((sending 0 0 0x1FF true).tx.enable = true ∧ (sending 0 0 0x1FF true).tx.phase = .idle) ∧
    ¬ (State.reset.tx.enable = true ∧ State.reset.tx.phase = .idle) := by decide

theorem witness_RxWaitingTakesAZeroForAStartBit :
    (live .none 3).ports.rst = false ∧ (live .none 3).rx.enable = true ∧ (live .none 3).rx.phase = .idle ∧
    lineLevel (live .none 3).ports (live .none 3).tx = true ∧
    lineLevel { Ports.quiet with rxLine := false } (live .none 3).tx = false := by decide

/-- A receiver that is counting, at the smallest timer and the largest. -/
def counting (timer : BitVec 24) : State :=
  let s := live .none 0xFFFFFF
  { s with rx := { s.rx with phase := .busy, timer := timer, bitno := 9 } }

theorem witness_RxCountsDownInsideAFrame :
    (counting 1).ports.rst = false ∧ (counting 1).rx.enable = true ∧ (counting 1).rx.phase = .busy ∧
    (counting 1).rx.timer ≠ 0 ∧ (counting 0xFFFFFF).rx.timer ≠ 0 := by decide

/-- A sample inside the frame and the last one. -/
theorem witness_RxSamplesAndJudgesTheFrame :
    ((counting 0).ports.rst = false ∧ (counting 0).rx.enable = true ∧ (counting 0).rx.phase = .busy ∧
      (counting 0).rx.timer = 0 ∧ (counting 0).rx.bitno ≠ 0) ∧
    ((completing true false).rx.enable = true ∧ (completing true false).rx.phase = .busy ∧
      (completing true false).rx.timer = 0 ∧ (completing true false).rx.bitno = 0) := by decide

theorem witness_RxEventsSetBufferAndFlags :
    ((tick noOp (completing true false).ports (completing true false)).out.event = .arrival 0x61 ∧
      (completing true false).rx.ready = false) ∧
    ((tick { rx := { consume := true } } (completing true true).ports (completing true true)).out.event =
      .arrival 0x61 ∧ (completing true true).rx.ready = true) ∧
    (tick noOp (completing false true).ports (completing false true)).out.event = .error ∧
    (completing true true).ports.rst = false := by decide

theorem witness_DisabledRxIgnoresTheLine :
    GoodState State.reset ∧ State.reset.ports.rst = false ∧ State.reset.rx.enable = false := ⟨good_reset, by decide⟩

theorem witness_RestingLineStartsNoFrame :
    (live .none 3).ports.rst = false ∧ (live .none 3).rx.enable = true ∧ (live .none 3).rx.phase = .idle := by decide

/-- The smallest divisor and the largest. -/
theorem witness_BreakOnTheLineIsAnError :
    ((live .none 1).ports.rst = false ∧ (live .none 1).rx.enable = true ∧ (live .none 1).rx.phase = .idle ∧
      (live .none 1).rx.divisor ≠ 0) ∧ (live .even 0xFFFFFF).rx.divisor ≠ 0 := by decide

/-- A dip of one tick at the smallest divisor, the longest dip at the largest. -/
theorem witness_FalseStartIsAnError :
    ((live .even 1).ports.rst = false ∧ (live .even 1).rx.enable = true ∧ (live .even 1).rx.phase = .idle ∧
      (live .even 1).rx.divisor ≠ 0 ∧ 1 ≤ (live .even 1).rx.divisor.toNat / 2 + 1) ∧
    ((live .none 0xFFFFFF).rx.divisor ≠ 0 ∧ 0x800000 ≤ (live .none 0xFFFFFF).rx.divisor.toNat / 2 + 1) := by decide

theorem witness_Frame8N1IsReceived :
    (live .none 3).cfg.parity = .none ∧ (live .none 3).ports.rst = false ∧ (live .none 3).rx.enable = true ∧
    (live .none 3).rx.phase = .idle ∧ 3 ≤ (live .none 3).rx.divisor.toNat ∧
    3 ≤ (live .none 0xFFFFFF).rx.divisor.toNat := by decide

/-- The right parity bit and the wrong one. -/
theorem witness_Frame8P1IsReceivedOrItsParityErrs :
    (live .even 3).cfg.parity ≠ .none ∧ (live .even 3).ports.rst = false ∧ (live .even 3).rx.enable = true ∧
    (live .even 3).rx.phase = .idle ∧ 3 ≤ (live .even 3).rx.divisor.toNat ∧
    true = parityBit (live .even 3).cfg.parity 0x61 ∧ false ≠ parityBit (live .even 3).cfg.parity 0x61 := by decide

/-- Counting, the next bit, the end of the frame. -/
theorem witness_TxCountsShiftsAndEnds :
    ((sending 3 9 0x161 false).ports.rst = false ∧ (sending 3 9 0x161 false).tx.enable = true ∧
      (sending 3 9 0x161 false).tx.phase = .busy ∧ (sending 3 9 0x161 false).tx.timer ≠ 0) ∧
    ((sending 0 9 0x161 false).tx.timer = 0 ∧ (sending 0 9 0x161 false).tx.bitno ≠ 0) ∧
    ((sending 0 0 0x1FF true).tx.timer = 0 ∧ (sending 0 0 0x1FF true).tx.bitno = 0) := by decide

theorem witness_AcceptedByteIsOnTheLineBitByBit :
    (live .none 1).ports.rst = false ∧ (live .none 1).tx.enable = true ∧ (live .none 1).tx.phase = .idle ∧
    (live .none 1).tx.divisor ≠ 0 ∧ (live .odd 0xFFFFFF).tx.divisor ≠ 0 := by decide

theorem witness_TxReadyReturnsAfterTheWholeFrame :
    (live .odd 1).ports.rst = false ∧ (live .odd 1).tx.enable = true ∧ (live .odd 1).tx.phase = .idle ∧
    (live .odd 1).tx.divisor ≠ 0 := by decide

theorem witness_NothingIsSentThatWasNotAccepted :
    ∃ t, (live .none 3).ports.rst = false ∧ exec (.wrTxData 0x61) (live .none 3) = .next t ∧
      (live .none 3).tx.phase = .idle ∧ t.tx.phase = .busy := ⟨_, by decide, rfl, by decide, by decide⟩

/-- The receiver listens to the transmitter. -/
def looped (par : Parity) (d : Divisor) : State := (live par d).withPorts { Ports.quiet with loopback := true }

theorem witness_LoopbackDeliversTheByteSent :
    GoodState (looped .none 3) ∧ (looped .none 3).ports.rst = false ∧ (looped .none 3).ports.loopback = true ∧
    (looped .none 3).tx.enable = true ∧ (looped .none 3).tx.phase = .idle ∧ (looped .none 3).rx.enable = true ∧
    (looped .none 3).rx.phase = .idle ∧ (looped .none 3).rx.divisor = (looped .none 3).tx.divisor ∧
    3 ≤ (looped .none 3).tx.divisor.toNat := ⟨⟨by decide, by decide, by decide⟩, by decide⟩

theorem witness_PhaseTransitionsAreTheListedOnes :
    GoodState threeBytes ∧ threeBytes.ports.rst = false ∧ underReset.ports.rst = true ∧ GoodState underReset :=
  ⟨good_threeBytes, by decide, by decide, ⟨by decide, by decide, by decide⟩⟩

/-- With a read request and without one. -/
theorem witness_CommandByteStartsTheTransaction :
    ((reading 3 .idle 0 0 0 [0, 0, 0, 0]).ports.rst = false ∧
      (reading 3 .idle 0 0 0 [0, 0, 0, 0]).seq.phase = .idle ∧
      (reading 3 .idle 0 0 0 [0, 0, 0, 0]).ports.reqValid = true ∧
      (reading 3 .idle 0 0 0 [0, 0, 0, 0]).ports.reqIsRead = true) ∧
    (prompt.ports.rst = false ∧ prompt.seq.phase = .idle ∧
      ¬ (prompt.ports.reqValid = true ∧ prompt.ports.reqIsRead = true)) := by decide

/-- Each of the three places, with the byte on offer and with another. -/
theorem witness_AddressBytesGoMostSignificantFirst :
    ((reading 3 .sendAddress 2 0 0 []).ports.rst = false ∧ (reading 3 .sendAddress 2 0 0 []).seq.phase = .sendAddress ∧
      (reading 3 .sendAddress 2 0 0 []).seq.aIdx = 2 ∧ (reading 3 .sendAddress 1 0 0 []).seq.aIdx = 1 ∧
      (reading 3 .sendAddress 0 0 0 []).seq.aIdx = 0) ∧
    (0xAB : Byte).toNat = (reading 3 .sendAddress 2 0 0 []).ports.reqAddress.toNat / 65536 ∧
    (0xAC : Byte).toNat ≠ (reading 3 .sendAddress 2 0 0 []).ports.reqAddress.toNat / 65536 ∧
    (0xCD : Byte).toNat = (reading 3 .sendAddress 1 0 0 []).ports.reqAddress.toNat / 256 % 256 ∧
    (0xAB : Byte).toNat ≠ (reading 3 .sendAddress 1 0 0 []).ports.reqAddress.toNat / 256 % 256 ∧
    (0xEF : Byte).toNat = (reading 3 .sendAddress 0 0 0 []).ports.reqAddress.toNat % 256 ∧
    (0xAB : Byte).toNat ≠ (reading 3 .sendAddress 0 0 0 []).ports.reqAddress.toNat % 256 := by decide

/-- A Sequencer to which the wires offer `0x9F`. -/
def offered (oCnt iCnt : Nat) : State :=
  let s := reading 3 .receiveData 0 oCnt iCnt [0, 0, 0, 0]
  s.withPorts { s.ports with inValid := true, inPayload := 0x9F }

/-- The last offer without an inbound byte, with one, with the completing one, and no offer left. -/
theorem witness_ReceiveOfferAdvancesTheOfferCounter :
    ((reading 3 .receiveData 0 3 0 [0, 0, 0, 0]).ports.rst = false ∧
      (reading 3 .receiveData 0 3 0 [0, 0, 0, 0]).seq.phase = .receiveData ∧
      (reading 3 .receiveData 0 3 0 [0, 0, 0, 0]).seq.oCnt ≠ (reading 3 .receiveData 0 3 0 [0, 0, 0, 0]).cfg.W ∧
      inOffer (reading 3 .receiveData 0 3 0 [0, 0, 0, 0]).ports Peer.fresh = none) ∧
    ((offered 3 2).seq.phase = .receiveData ∧ (offered 3 2).seq.oCnt ≠ (offered 3 2).cfg.W ∧
      inOffer (offered 3 2).ports (offered 3 2).peer = some 0x9F ∧ (offered 3 2).seq.iCnt ≠ (offered 3 2).cfg.W - 1) ∧
    ((offered 3 3).seq.oCnt ≠ (offered 3 3).cfg.W ∧ (offered 3 3).seq.iCnt = (offered 3 3).cfg.W - 1) ∧
    threeBytes.seq.oCnt = threeBytes.cfg.W := by decide

theorem witness_DeselectEndsTheTransaction :
    (reading 3 .deselect 0 0 0 [1, 2, 3, 4]).ports.rst = false ∧
    (reading 3 .deselect 0 0 0 [1, 2, 3, 4]).seq.phase = .deselect := by decide

/-- A byte before the last, the last, and a byte outside `RECEIVE_DATA`. -/
theorem witness_InboundByteIsStoredInReceiveDataOnly :
    ((offered 4 2).ports.rst = false ∧ (offered 4 2).seq.phase = .receiveData ∧
      (offered 4 2).seq.iCnt ≠ (offered 4 2).cfg.W - 1) ∧
    (threeBytes.ports.rst = false ∧ threeBytes.seq.phase = .receiveData ∧ threeBytes.seq.iCnt = threeBytes.cfg.W - 1) ∧
    (prompt.ports.rst = false ∧ prompt.seq.phase ≠ .receiveData) := by decide

/-- Idle with a ready lane, idle with a stalled one, in flight. -/
theorem witness_ReadRequestIsTakenOnlyWhenIdle :
    (prompt.ports.rst = false ∧ prompt.seq.phase = .idle ∧ prompt.ports.outReady = true) ∧
    (State.reset.ports.rst = false ∧ State.reset.seq.phase = .idle ∧ State.reset.ports.outReady = false) ∧
    (threeBytes.ports.rst = false ∧ threeBytes.seq.phase ≠ .idle) := by decide

theorem witness_WriteRequestIsNeverAcknowledged :
    GoodState prompt ∧ prompt.ports.rst = false ∧ prompt.seq.phase = .idle := ⟨good_prompt, by decide⟩

theorem witness_NoRequestIdlesIndefinitely :
    GoodState prompt ∧ prompt.ports.rst = false ∧ prompt.seq.phase = .idle := ⟨good_prompt, by decide⟩

/-- A state in the tick of `ack`, and one whose tick completes a transaction. -/
theorem witness_AckLastsExactlyOneTick :
    (GoodState { reading 3 .deselect 0 0 0 [1, 2, 3, 4] with seq :=
      { phase := .deselect, aIdx := 0, oCnt := 0, iCnt := 0, result := [1, 2, 3, 4], ack := true } }) ∧
    GoodState (offered 4 3) ∧ (offered 4 3).ports.rst = false ∧ (offered 4 3).seq.phase = .receiveData ∧
    (offered 4 3).seq.iCnt = (offered 4 3).cfg.W - 1 ∧
    (inOffer (offered 4 3).ports (offered 4 3).peer).isSome = true :=
  ⟨⟨by decide, by decide, by decide⟩, ⟨by decide, by decide, by decide⟩, by decide⟩

theorem witness_ReadInFlightStaysInStep :
    GoodState prompt ∧ NeighboursKeep 0 prompt.ports ∧ InStep 0 prompt := ⟨good_prompt, by decide, by decide⟩

/-- A read of one byte, its answer owed: the next tick completes it. -/
def lastAnswer : State :=
  { reading 0 .receiveData 0 1 0 [0] with
    peer  := { taken := [], owed := [Config.flashByte 0xABCDEF], sent := [0x03, 0xAB, 0xCD, 0xEF], served := 1 }
    ports := { (Ports.quiet.withRequest true true 0xABCDEF) with inValid := true, inFromPeer := true } }

theorem witness_AckDeliversTheFlashBytes :
    GoodState lastAnswer ∧ NeighboursKeep 0xABCDEF lastAnswer.ports ∧ InStep 0xABCDEF lastAnswer ∧
    (tick noOp lastAnswer.ports lastAnswer).seq.ack = true :=
  ⟨⟨by decide, by decide, by decide⟩, by decide,
   ⟨fun h => absurd h (by decide), fun h => absurd h (by decide), fun _ => ⟨rfl, rfl, by decide, rfl, rfl⟩,
    fun h => absurd h (by decide)⟩, rfl⟩

theorem witness_ReadCompletesWithAPromptPeer :
    GoodState prompt ∧ InStep 0xABCDEF prompt ∧ prompt.seq.phase = .idle ∧ prompt.ports.rst = false ∧
    prompt.ports.outReady = true ∧ prompt.ports.inValid = true ∧ prompt.ports.inFromPeer = true :=
  ⟨good_prompt, ⟨fun _ => by decide, fun h => absurd h (by decide), fun h => absurd h (by decide),
    fun h => absurd h (by decide)⟩, by decide⟩

/-- Each of the four phases, with `rst = 0`. -/
theorem witness_DrivenOutputsAreThoseOfTheState :
    prompt.ports.rst = false ∧ prompt.seq.phase = .idle ∧
    (reading 3 .sendAddress 2 0 0 []).ports.rst = false ∧ (reading 3 .sendAddress 2 0 0 []).seq.phase = .sendAddress ∧
    threeBytes.ports.rst = false ∧ threeBytes.seq.phase = .receiveData ∧ threeBytes.seq.oCnt = threeBytes.cfg.W ∧
    (reading 3 .deselect 0 0 0 []).ports.rst = false ∧ (reading 3 .deselect 0 0 0 []).seq.phase = .deselect := by decide

theorem witness_EveryStepKeepsTheInvariant :
    ∃ t, GoodState (completing true true) ∧ step (completing true true) = .next t :=
  ⟨idleTick ((completing true true).withPorts ((completing true true).ports.withRequest false false 0)),
    good_completing, rfl⟩

theorem witness_NoStepChangesTheBuild : ∃ t, step (live .even 3) = .next t :=
  ⟨idleTick ((live .even 3).withPorts ((live .even 3).ports.withRequest false false 0)), rfl⟩

/-- Two states that agree on each machine and differ in the others; two environments that differ only on the line. -/
theorem witness_MachinesNeverReadEachOther :
    isLineFrame .rdRxData = false ∧ (∃ t, exec .rdRxData flagged = .next t) ∧
    (∃ t, exec .rdRxData { flagged with tx := TxDir.reset Config.thisHardware } = .next t) ∧
    lineLevel flagged.ports flagged.tx = lineLevel flagged.ports (TxDir.reset Config.thisHardware) ∧
    flagged.tx ≠ TxDir.reset Config.thisHardware ∧
    SameLanePorts Ports.quiet { Ports.quiet with rxLine := false, loopback := true } :=
  ⟨rfl, ⟨_, rfl⟩, ⟨_, rfl⟩, by decide, by decide, by decide⟩

theorem witness_StickyFlagsAreClearedOnlyByStatusWrites :
    ∃ t, flagged.ports.rst = false ∧ exec (.wrRxStatus 6) flagged = .next t ∧ flagged.rx.overflow = true ∧
      t.rx.overflow = false ∧ flagged.rx.error = true ∧ t.rx.error = false := ⟨_, rfl, rfl, by decide⟩

theorem witness_StickyFlagsAreSetOnlyByEvents :
    isLineFrame .rdRxStatus = false ∧
    (∃ t, exec .rdRxStatus (completing true true) = .next t ∧ (completing true true).rx.overflow = false ∧
      t.rx.overflow = true) ∧
    (∃ t, exec .rdRxStatus (completing false true) = .next t ∧ (completing false true).rx.error = false ∧
      t.rx.error = true) := ⟨rfl, ⟨_, rfl, by decide⟩, ⟨_, rfl, by decide⟩⟩

theorem witness_DivisorChangesOnlyWhileDisabled :
    (∃ t, State.reset.ports.rst = false ∧ exec (.wrRxPhyConfig 0xFFFFFFFF) State.reset = .next t ∧
      t.rx.divisor ≠ State.reset.rx.divisor) ∧
    (∃ t, exec (.wrTxPhyConfig 0) State.reset = .next t ∧ t.tx.divisor ≠ State.reset.tx.divisor) :=
  ⟨⟨_, rfl, rfl, by decide⟩, ⟨_, rfl, by decide⟩⟩

theorem witness_ReadyFallsOnlyByAccessOrDisable :
    (∃ t, GoodState flagged ∧ flagged.ports.rst = false ∧ exec .rdRxData flagged = .next t ∧
      flagged.rx.ready = true ∧ t.rx.ready = false) ∧
    (∃ t, exec (.wrTxData 0) flagged = .next t ∧ txReady flagged.tx = true ∧ txReady t.tx = false) :=
  ⟨⟨_, good_flagged, rfl, rfl, by decide⟩, ⟨_, rfl, by decide⟩⟩

theorem witness_GetcReturnsTheBufferedByte :
    GoodState flagged ∧ flagged.ports.rst = false ∧ flagged.rx.ready = true := ⟨good_flagged, by decide⟩

/-- Enabled and idle, and disabled with the line at 0. -/
theorem witness_QuietStateNeverChanges :
    (GoodState (live .none 3) ∧ Quiet (live .none 3)) ∧
    (GoodState State.reset ∧ Quiet (State.reset.withPorts { Ports.quiet with rxLine := false })) :=
  ⟨⟨good_live_none, by decide⟩, ⟨good_reset, by decide⟩⟩

end Sys2Proof.Tests
end

/-! SUPPORT. What one operation puts on the ports of its tick, said once for the operations of one tick, and the proofs of
the statements of 00_scope.md. -/

namespace Sys2Proof.Machine

/-! ### The tick of an operation -/

/-- The register operation presented in the tick of an operation; none for what stands on another port. -/
def busOpOf (i : Instr) (s : State) : BusOp :=
  match i with
  | .rdRxConfig      => { rdata := some (bitWord s.rx.enable) }
  | .wrRxConfig w    => { rx := { enable := some (enableOperand w) } }
  | .rdRxPhyConfig   => { rdata := some (phyWord s.rx.res s.rx.divisor) }
  | .wrRxPhyConfig w => { rx := { phy := some w } }
  | .rdRxStatus      => { rdata := some (rxStatusWord s.rx.error s.rx.overflow s.rx.ready) }
  | .wrRxStatus w    => { rx := { clrOverflow := clrOverflowOperand w, clrError := clrErrorOperand w } }
  | .rdRxData        => { rx := { consume := true }, rdata := some (byteWord s.rx.buf) }
  | .rdTxConfig      => { rdata := some (bitWord s.tx.enable) }
  | .wrTxConfig w    => { tx := { enable := some (enableOperand w) } }
  | .rdTxPhyConfig   => { rdata := some (phyWord s.tx.res s.tx.divisor) }
  | .wrTxPhyConfig w => { tx := { phy := some w } }
  | .rdTxStatus      => { rdata := some (bitWord (txReady s.tx)) }
  | .rdTxData        => { rdata := some 0 }
  | .wrTxData w      => { tx := { byte := some (byteOperand w) } }
  | _                => noOp

/-- The levels an operation leaves standing for the ticks after it: a request stays on its port. -/
def standingPorts (i : Instr) (p : Ports) : Ports :=
  match i with
  | .reqRead a   => p.withRequest true true a
  | .reqWrite a  => p.withRequest true false a
  | .reqNone r a => p.withRequest false r a
  | _            => p

/-- The levels of a tick in which the lane peer is ready for one item at one place only. -/
def readyFor (place : ItemPlace) (it : LaneItem) (s : State) : Ports :=
  { s.ports with outReady := onOffer place it s.ports s }

/-- The levels on the ports in the tick of an operation. -/
def tickPorts (i : Instr) (s : State) : Ports :=
  match i with
  | .seqCmdRead | .flashRead => readyFor .command { mode := .txSingle, payload := Config.cmdRead } s
  | .seqAddr2 b  => readyFor (.address 2) { mode := .txSingle, payload := b } s
  | .seqAddr1 b  => readyFor (.address 1) { mode := .txSingle, payload := b } s
  | .seqAddr0 b  => readyFor (.address 0) { mode := .txSingle, payload := b } s
  | .seqRxOffer  => readyFor .offer { mode := .rxData, payload := Config.dummyPayload } s
  | .seqDeselect => readyFor .deselect { mode := .deselect, payload := Config.dummyPayload } s
  | .seqRxByte b => { s.ports with inValid := true, inPayload := b, inFromPeer := false }
  | _            => standingPorts i s.ports

/-- Every operation but the line frames and the refused opcodes is one tick, under its own levels and with its own register
operation. -/
theorem exec_eq_tick {i : Instr} (hl : isLineFrame i = false) (hu : isUnusedOpcode i = false) (s : State) :
    exec i s = .next (tick (busOpOf i s) (tickPorts i s) (s.withPorts (standingPorts i s.ports))) := by
  cases i with
  | uartFrame8N1 _ | uartFrame8P1 _ _ => cases hl
  | flashUnused0B | flashUnused3B | flashUnused6B | flashUnusedBB | flashUnusedEB => cases hu
  | _ => rfl

/-- An operation that answers a next state is none of the refused opcodes. -/
theorem isUnusedOpcode_of_exec_next {i : Instr} {s t : State} (h : exec i s = .next t) : isUnusedOpcode i = false := by
  cases i with
  | flashUnused0B | flashUnused3B | flashUnused6B | flashUnusedBB | flashUnusedEB => cases h
  | _ => rfl

/-- The state after an operation of one tick. -/
theorem eq_tick_of_exec_next {i : Instr} {s t : State} (hl : isLineFrame i = false) (h : exec i s = .next t) :
    t = tick (busOpOf i s) (tickPorts i s) (s.withPorts (standingPorts i s.ports)) := by
  rw [exec_eq_tick hl (isUnusedOpcode_of_exec_next h)] at h
  exact (Host.Outcome.next.inj h).symm

/-- The strobes into the RX direction are the operation's own, whatever the state. -/
theorem busOpOf_rx_indep (i : Instr) (s s' : State) : (busOpOf i s).rx = (busOpOf i s').rx := by cases i <;> rfl

/-- The strobes into the TX direction are the operation's own, whatever the state. -/
theorem busOpOf_tx_indep (i : Instr) (s s' : State) : (busOpOf i s).tx = (busOpOf i s').tx := by cases i <;> rfl

/-- No operation drives the reset input or, but for the line frames, the line. -/
theorem tickPorts_sameLevels (i : Instr) (s : State) : SameLevels s.ports (tickPorts i s) := by
  cases i <;> exact ⟨rfl, rfl, rfl⟩

/-! ### What the Sequencer sees of its inputs -/

theorem outValid_congr {p p' : Ports} (h : SameLanePorts p p') (P : Params) (q : Sequencer) :
    outValid P p q = outValid P p' q := by
  obtain ⟨hvalid, hread, -, -, -, -, -⟩ := h
  simp [outValid, qualifies, hvalid, hread]

theorem outItem_congr {p p' : Ports} (h : SameLanePorts p p') (q : Sequencer) : outItem p q = outItem p' q := by
  obtain ⟨-, -, haddr, -, -, -, -⟩ := h
  simp [outItem, haddr]

theorem inXfer_congr {p p' : Ports} (h : SameLanePorts p p') (r : Peer) (q : Sequencer) :
    inXfer p r q = inXfer p' r q := by
  simp [inXfer, inOffer_congr h]

/-- Whether an item is on offer at its place depends on the Sequencer and its own inputs. -/
theorem onOffer_congr {p p' : Ports} {s s' : State} (h : SameLanePorts p p') (hc : s.cfg = s'.cfg) (hq : s.seq = s'.seq)
    (place : ItemPlace) (it : LaneItem) : onOffer place it p s = onOffer place it p' s' := by
  simp only [onOffer, hc, hq, outValid_congr h, outItem_congr h]

theorem readyFor_congr {s s' : State} (h : SameLanePorts s.ports s'.ports) (hc : s.cfg = s'.cfg) (hq : s.seq = s'.seq)
    (place : ItemPlace) (it : LaneItem) : SameLanePorts (readyFor place it s) (readyFor place it s') := by
  have hready := onOffer_congr h hc hq place it
  obtain ⟨hvalid, hread, haddr, -, hin, hbyte, hpeer⟩ := h
  exact ⟨hvalid, hread, haddr, hready, hin, hbyte, hpeer⟩

/-- A request put on the port leaves the lanes' levels as they were. -/
theorem withRequest_congr {p p' : Ports} (h : SameLanePorts p p') (v r : Bool) (a : FlashAddr) :
    SameLanePorts (p.withRequest v r a) (p'.withRequest v r a) := by
  obtain ⟨-, -, -, hout, hin, hbyte, hpeer⟩ := h
  exact ⟨rfl, rfl, rfl, hout, hin, hbyte, hpeer⟩

/-- The Sequencer's inputs in the tick of an operation depend on the Sequencer and its inputs before it. -/
theorem tickPorts_congr {s s' : State} (h : SameLanePorts s.ports s'.ports) (hc : s.cfg = s'.cfg) (hq : s.seq = s'.seq)
    (i : Instr) : SameLanePorts (tickPorts i s) (tickPorts i s') := by
  cases i with
  | seqCmdRead | flashRead | seqAddr2 _ | seqAddr1 _ | seqAddr0 _ | seqRxOffer | seqDeselect =>
    exact readyFor_congr h hc hq _ _
  | seqRxByte b =>
    obtain ⟨hvalid, hread, haddr, hout, -, -, -⟩ := h
    exact ⟨hvalid, hread, haddr, hout, rfl, rfl, rfl⟩
  | reqRead _ | reqWrite _ | reqNone _ _ => exact withRequest_congr h _ _ _
  | _ => exact h

/-! ### Each machine in a tick -/

theorem tick_rx (op : BusOp) (p : Ports) (s : State) : (tick op p s).rx =
    if p.rst then RxDir.reset s.cfg else rxStep s.cfg.parity op.rx (lineLevel p s.tx) s.rx := by
  unfold tick; split <;> rfl

theorem tick_tx (op : BusOp) (p : Ports) (s : State) : (tick op p s).tx =
    if p.rst then TxDir.reset s.cfg else txStep s.cfg.parity op.tx s.tx := by
  unfold tick; split <;> rfl

theorem tick_seq (op : BusOp) (p : Ports) (s : State) : (tick op p s).seq =
    if p.rst then Sequencer.reset s.cfg
    else seqStep s.cfg (outXfer s.cfg p s.seq).isSome (inXfer p s.peer s.seq) s.seq := by
  unfold tick; split <;> rfl

section Exec

variable {i : Instr} {s t : State}

/-- The RX direction after an operation of one tick: its strobes, the line and the direction itself decide. -/
theorem exec_rx (hl : isLineFrame i = false) (h : exec i s = .next t) : t.rx =
    if s.ports.rst then RxDir.reset s.cfg
    else rxStep s.cfg.parity (busOpOf i s).rx (lineLevel s.ports s.tx) s.rx := by
  have hp := tickPorts_sameLevels i s
  rw [eq_tick_of_exec_next hl h, tick_rx, hp.rst]
  simp [hp.lineLevel]

/-- The TX direction after an operation of one tick: its strobes and the direction itself decide. -/
theorem exec_tx (hl : isLineFrame i = false) (h : exec i s = .next t) : t.tx =
    if s.ports.rst then TxDir.reset s.cfg else txStep s.cfg.parity (busOpOf i s).tx s.tx := by
  rw [eq_tick_of_exec_next hl h, tick_tx, (tickPorts_sameLevels i s).rst]
  simp

/-- The Sequencer after an operation of one tick: the transfers on its two lanes and the Sequencer itself decide. -/
theorem exec_seq (hl : isLineFrame i = false) (h : exec i s = .next t) : t.seq =
    if s.ports.rst then Sequencer.reset s.cfg
    else seqStep s.cfg (outXfer s.cfg (tickPorts i s) s.seq).isSome (inXfer (tickPorts i s) s.peer s.seq) s.seq := by
  rw [eq_tick_of_exec_next hl h, tick_seq, (tickPorts_sameLevels i s).rst]
  simp

end Exec

/-- Settles O53: the equation of each machine after an operation (`exec_rx`, `exec_tx`, `exec_seq`) names nothing of the
other two. -/
theorem machinesNeverReadEachOther : Obligations.MachinesNeverReadEachOther := by
  intro i s s' t t' hl h h' hc hr
  refine ⟨fun hrx hline => ?_, fun htx => ?_, fun hseq hp hpeer => ?_⟩
  · rw [exec_rx hl h, exec_rx hl h', hc, hr, hrx, hline, busOpOf_rx_indep i s s']
  · rw [exec_tx hl h, exec_tx hl h', hc, hr, htx, busOpOf_tx_indep i s s']
  · have hports := tickPorts_congr hp hc hseq i
    rw [exec_seq hl h, exec_seq hl h', hc, hr, hseq, hpeer, outXfer_congr hports, inXfer_congr hports]

/-! ### Steps -/

@[simp] theorem loadSlot_cfg (s : State) : (loadSlot s).cfg = s.cfg := rfl

/-- No operation changes the build parameters. -/
theorem exec_cfg {i : Instr} {s t : State} (h : exec i s = .next t) : t.cfg = s.cfg :=
  exec_keeps (I := fun u => u.cfg = s.cfg) (fun _ _ hu => hu) (fun op p u hu => (tick_cfg op p u).trans hu) rfl h

/-- Settles O52: a step is an operation on the loaded state, and no tick of an operation writes the build. -/
theorem noStepChangesTheBuild : Obligations.NoStepChangesTheBuild := by
  intro s t h
  obtain ⟨i, -, hexec⟩ := step_eq_next h
  rw [exec_cfg hexec, loadSlot_cfg]

/-! ### A step with nothing scheduled -/

/-- The operation the levels of the request port stand for. -/
def requestInstr (valid isRead : Bool) (a : FlashAddr) : Instr :=
  match valid, isRead with
  | true,  true  => .reqRead a
  | true,  false => .reqWrite a
  | false, r     => .reqNone r a

/-- A request read back from its encoding is the request. -/
theorem decode_encodeReq (P : Params) (valid isRead : Bool) (a : FlashAddr) :
    decode P (encodeReq valid isRead a) = .ok (requestInstr valid isRead a) := by
  have haddr : (a.setWidth 32).extractLsb' 0 24 = a := by
    ext j hj
    simp [show j < 32 by omega, BitVec.getLsbD_eq_getElem hj]
  cases valid <;> cases isRead <;> simp [decode, encodeReq, decodeReq, requestInstr, haddr]

theorem exec_requestInstr (valid isRead : Bool) (a : FlashAddr) (s : State) :
    exec (requestInstr valid isRead a) s = request valid isRead a s := by
  cases valid <;> cases isRead <;> rfl

/-- Presenting the request that stands already changes no level. -/
@[simp] theorem withRequest_standing (p : Ports) : p.withRequest p.reqValid p.reqIsRead p.reqAddress = p := rfl

/-- With nothing scheduled the slot taken is the standing levels with the request on them. -/
theorem nextSlot_of_nil {s : State} (h : s.schedule = []) :
    nextSlot s = { ports := s.ports, op := standingRequest s.ports } := by simp [nextSlot, h]

/-- With nothing scheduled, loading the slot changes nothing. -/
theorem loadSlot_of_nil {s : State} (h : s.schedule = []) : loadSlot s = s := by
  rw [loadSlot, nextSlot_of_nil h, h, List.tail_nil, ← h]; rfl

/-- A step runs the operation its slot decodes to. -/
theorem step_of_decode_ok {s : State} {i : Instr} (h : decode s.cfg (nextSlot s).op = .ok i) :
    step s = exec i (loadSlot s) := by simp [step, h]

/-- Settles O6: the standing request decodes to itself, and presenting it again is a tick under the standing levels. -/
theorem unscheduledStepIsAnIdleTick : Obligations.UnscheduledStepIsAnIdleTick := by
  intro s h
  have hdec : decode s.cfg (nextSlot s).op = .ok (requestInstr s.ports.reqValid s.ports.reqIsRead s.ports.reqAddress) := by
    rw [nextSlot_of_nil h]; exact decode_encodeReq ..
  rw [step_of_decode_ok hdec, loadSlot_of_nil h, exec_requestInstr, request_eq, withRequest_standing]
  rfl

end Sys2Proof.Machine

/-! SUPPORT. What keeps the invariant of each machine, one lemma a shared operation; what the outbound lane offers in
each phase; how an operation ends with a tick; and the proofs of the statements of 10_state.md. -/

namespace Sys2Proof.Machine

/-! ### Counters and timers -/

@[simp] theorem lastBitNo_toNat (par : Parity) : (lastBitNo par).toNat = frameLength par - 1 := by cases par <;> rfl

theorem frameLength_pos (par : Parity) : 0 < frameLength par := by cases par <;> decide

theorem toNat_pos_of_ne_zero {w : Nat} {x : BitVec w} (h : x ≠ 0) : 0 < x.toNat := by
  simpa [Nat.pos_iff_ne_zero, BitVec.toNat_eq] using h

/-- A bit counter, an address index or a timer that is not 0 counts down without wrapping. -/
theorem toNat_sub_one {w : Nat} {x : BitVec w} (h : x ≠ 0) : (x - 1).toNat = x.toNat - 1 := by
  have hpos := toNat_pos_of_ne_zero h
  cases w with
  | zero => simp [BitVec.of_length_zero] at h
  | succ w =>
    rw [BitVec.toNat_sub_of_le (by simp [BitVec.le_def]; omega)]
    simp

theorem timerBelow_zero (d : Divisor) : TimerBelow 0 d := fun hd => toNat_pos_of_ne_zero hd

/-- The reload of a bit (41_uart_rx.md rule R95, 42_uart_tx.md rules R112, R116). -/
theorem timerBelow_reload (d : Divisor) : TimerBelow (d - 1) d := by
  intro hd
  have hpos := toNat_pos_of_ne_zero hd
  rw [toNat_sub_one hd]
  omega

/-- The half bit of the start sample (41_uart_rx.md rule R93). -/
theorem timerBelow_half (d : Divisor) : TimerBelow (d >>> 1) d := by
  intro hd
  have hpos := toNat_pos_of_ne_zero hd
  rw [BitVec.toNat_ushiftRight, Nat.shiftRight_eq_div_pow]
  omega

theorem timerBelow_pred {t d : BitVec 24} (ht : t ≠ 0) (h : TimerBelow t d) : TimerBelow (t - 1) d := by
  intro hd
  have hlt := h hd
  rw [toNat_sub_one ht]
  omega

/-- An enabled direction stays enabled unless the operation of the tick disables it. -/
theorem enable_of_not_disabled {written : Option Bool} (h : written ≠ some false) : written.getD true = true := by
  rcases written with _ | _ | _
  · rfl
  · exact absurd rfl h
  · rfl

/-! ### The RX direction keeps its invariant -/

section Rx

variable {par : Parity} {r r' : RxDir}

/-- A direction with everything in reset meets the invariant, enabled or not. -/
theorem rxInv_of_inReset (hready : r.ready = false) (hphase : r.phase = .idle) (htimer : r.timer = 0)
    (hbit : r.bitno = 0) (hshreg : r.shreg = 0) : RxInv par r := by
  refine ⟨fun _ => ⟨hready, hphase, htimer, hbit, hshreg⟩, ?_, fun _ => hbit, fun _ => ?_, ?_⟩
  · rw [hbit]; exact frameLength_pos par
  · rw [hshreg]; rfl
  · rw [htimer]; exact timerBelow_zero _

/-- Of an enabled direction the invariant looks at the line layer and the divisor only. -/
theorem rxInv_of_sameLineLayer (h : RxInv par r) (henable : r'.enable = true) (hdiv : r'.divisor = r.divisor)
    (hphase : r'.phase = r.phase) (htimer : r'.timer = r.timer) (hbit : r'.bitno = r.bitno)
    (hshreg : r'.shreg = r.shreg) : RxInv par r' := by
  obtain ⟨-, hlt, hidle, htop, hbelow⟩ := h
  refine ⟨fun hd => absurd henable (by simp [hd]), ?_, ?_, ?_, ?_⟩
  · rwa [hbit]
  · rwa [hphase, hbit]
  · rwa [hshreg]
  · rwa [htimer, hdiv]

/-- Without parity the level goes in at bit 9 (41_uart_rx.md rule R95). -/
theorem rxShiftIn_top (level : Bool) (x : BitVec 11) (h : par = .none) :
    (rxShiftIn par level x).getLsbD 10 = false := by
  subst h; simp [rxShiftIn]

/-- Every tick of a running engine keeps the invariant. -/
theorem rxEngine_keeps_inv (level : Bool) (henable : r.enable = true) (h : RxInv par r) :
    RxInv par (rxEngine par level r) := by
  have hon : ∀ {Q : Prop}, r.enable = false → Q := fun hd => absurd henable (by simp [hd])
  obtain ⟨hdis, hlt, hidle, htop, hbelow⟩ := h
  rcases rxEngine_cases par level r with ⟨-, -, hr⟩ | ⟨-, -, hr⟩ | ⟨hbusy, ht, hr⟩ | ⟨hbusy, -, hb, hr⟩ | ⟨-, -, hb, hr⟩
  · rw [hr]; exact ⟨hdis, hlt, hidle, htop, hbelow⟩
  · rw [hr]
    have hpos := frameLength_pos par
    exact ⟨hon, by simp only [lastBitNo_toNat]; omega, LinePhase.noConfusion, htop, timerBelow_half _⟩
  · rw [hr]; exact ⟨hon, hlt, hidle, htop, timerBelow_pred ht hbelow⟩
  · rw [hr]
    refine ⟨hon, ?_, fun hp => absurd hp (by simp [hbusy]), rxShiftIn_top _ _, timerBelow_reload _⟩
    simp only [toNat_sub_one hb]
    omega
  · rw [hr]; exact ⟨hon, hlt, fun _ => hb, rxShiftIn_top _ _, timerBelow_reload _⟩

/-- An event of the tick writes the buffer and the flags only. -/
theorem rxApplyEvent_frame (ev : RxEvent) (r : RxDir) :
    (rxApplyEvent ev r).enable = r.enable ∧ (rxApplyEvent ev r).divisor = r.divisor ∧
    (rxApplyEvent ev r).phase = r.phase ∧ (rxApplyEvent ev r).timer = r.timer ∧
    (rxApplyEvent ev r).bitno = r.bitno ∧ (rxApplyEvent ev r).shreg = r.shreg := by
  rcases rxApplyEvent_cases ev r with ⟨-, hr⟩ | ⟨b, -, -, hr⟩ | ⟨b, -, -, hr⟩ | ⟨-, hr⟩ <;> rw [hr] <;> simp

/-- The engine runs exactly in an enabled direction that is not being disabled. -/
theorem rxRuns_iff (c : RxCtl) (r : RxDir) : rxRuns c r = true ↔ r.enable = true ∧ c.enable ≠ some false := by
  simp [rxRuns]

/-- A tick with `rst = 0` keeps the invariant whatever register operation is presented: a direction that runs does what
its engine does, any other is in reset afterwards, where a new divisor finds the timer at 0. -/
theorem rxStep_keeps_inv (c : RxCtl) (level : Bool) (h : RxInv par r) : RxInv par (rxStep par c level r) := by
  cases hrun : rxRuns c r with
  | true =>
    obtain ⟨hon, hkeep⟩ := (rxRuns_iff c r).1 hrun
    have hengine := rxEngine_keeps_inv level hon h
    have hstep : rxStep par c level r = rxApplyOp c (rxEvent par c level r) r.ready
        (rxApplyEvent (rxEvent par c level r) (rxEngine par level r)) := by simp [rxStep, hrun]
    have heng : (rxEngine par level r).enable = r.enable := by rw [rxEngine_frame]
    rw [hstep]
    obtain ⟨fen, fdiv, fphase, ftimer, fbit, fshreg⟩ :=
      rxApplyEvent_frame (rxEvent par c level r) (rxEngine par level r)
    obtain ⟨en, div, -, -, -, -, -, phase, timer, bit, shreg⟩ :=
      rxApplyOp_fields c (rxEvent par c level r) r.ready (rxApplyEvent (rxEvent par c level r) (rxEngine par level r))
    refine rxInv_of_sameLineLayer hengine ?_ ?_ (phase.trans fphase) (timer.trans ftimer) (bit.trans fbit)
      (shreg.trans fshreg)
    · rw [en, fen, heng, hon]; exact enable_of_not_disabled hkeep
    · rw [div, fen, heng, hon, fdiv]; cases c.phy <;> rfl
  | false =>
    rw [(rxStep_held par c level r hrun).2]
    obtain ⟨-, -, -, ready, -, -, -, phase, timer, bit, shreg⟩ := rxApplyOp_fields c .none r.ready (rxHold r)
    exact rxInv_of_inReset (ready.trans rfl) phase timer bit shreg

theorem rxInv_reset (P : Params) : RxInv par (RxDir.reset P) := rxInv_of_inReset rfl rfl rfl rfl rfl

end Rx

/-! ### The TX direction keeps its invariant -/

section Tx

variable {par : Parity} {t t' : TxDir}

/-- A direction with everything in reset meets the invariant, enabled or not. -/
theorem txInv_of_inReset (hphase : t.phase = .idle) (htimer : t.timer = 0) (hbit : t.bitno = 0) (hshreg : t.shreg = 0)
    (hline : t.line = true) : TxInv par t := by
  have hnot : ∀ {Q : Prop}, t.phase = .busy → Q := fun hb => absurd hphase (by simp [hb])
  refine ⟨fun _ => ⟨hphase, htimer, hbit, hshreg, hline⟩, ?_, fun _ => ⟨hline, hbit⟩, hnot, hnot, fun _ => ?_, ?_⟩
  · rw [hbit]; exact frameLength_pos par
  · rw [hshreg]; rfl
  · rw [htimer]; exact timerBelow_zero _

/-- Of an enabled direction the invariant looks at the line layer and the divisor only. -/
theorem txInv_of_sameLineLayer (h : TxInv par t) (henable : t'.enable = true) (hdiv : t'.divisor = t.divisor)
    (hphase : t'.phase = t.phase) (htimer : t'.timer = t.timer) (hbit : t'.bitno = t.bitno)
    (hshreg : t'.shreg = t.shreg) (hline : t'.line = t.line) : TxInv par t' := by
  obtain ⟨-, hlt, hidle, hlast, hones, htop, hbelow⟩ := h
  refine ⟨fun hd => absurd henable (by simp [hd]), ?_, ?_, ?_, ?_, ?_, ?_⟩
  · rwa [hbit]
  · rwa [hphase, hline, hbit]
  · rwa [hphase, hbit, hline]
  · rwa [hphase, hbit, hshreg]
  · rwa [hshreg]
  · rwa [htimer, hdiv]

/-- The stop bit stands above the data and the parity bit (42_uart_tx.md rule R112). -/
theorem loadShift_stop (b : Byte) : (loadShift par b).getLsbD (frameLength par - 2) = true := by
  cases par <;> simp only [loadShift, frameLength, BitVec.getLsbD_setWidth, BitVec.getLsbD_append] <;> rfl

theorem loadShift_top (b : Byte) (h : par = .none) : (loadShift par b).getLsbD 9 = false := by
  subst h; simp [loadShift]

/-- The shift moves every bit down by one and a 1 into the place of the stop bit (42_uart_tx.md rule R116). -/
theorem txShiftOut_getLsbD (x : BitVec 10) {i : Nat} (hi : i < frameLength par - 1) :
    (txShiftOut par x).getLsbD i = (i == frameLength par - 2 || x.getLsbD (i + 1)) := by
  cases par
  all_goals
    simp only [frameLength] at hi ⊢
    simp only [txShiftOut, BitVec.getLsbD_append, BitVec.getLsbD_setWidth, BitVec.getLsbD_extractLsb', Nat.add_comm 1 i]
    grind

theorem txShiftOut_top (x : BitVec 10) (h : par = .none) : (txShiftOut par x).getLsbD 9 = false := by
  subst h; simp [txShiftOut]

/-- Every tick of a running engine keeps the invariant: the ones behind the data follow the bits that are sent, so the
line ends the frame at 1. -/
theorem txEngine_keeps_inv (o : Option Byte) (henable : t.enable = true) (h : TxInv par t) :
    TxInv par (txEngine par o t) := by
  have hon : ∀ {Q : Prop}, t.enable = false → Q := fun hd => absurd henable (by simp [hd])
  have hpos : 2 < frameLength par := by cases par <;> decide
  obtain ⟨hdis, hlt, hidle, hlast, hones, htop, hbelow⟩ := h
  rcases txEngine_cases par o t with
    ⟨-, -, ht⟩ | ⟨b, -, -, ht⟩ | ⟨-, htimer, ht⟩ | ⟨hbusy, -, hb, ht⟩ | ⟨hbusy, -, hb, ht⟩
  · rw [ht]; exact ⟨hdis, hlt, hidle, hlast, hones, htop, hbelow⟩
  · rw [ht]
    refine ⟨hon, ?_, LinePhase.noConfusion, fun _ hb => ?_, fun _ i hi hle => ?_, loadShift_top b, timerBelow_reload _⟩
    · simp only [txAccept, lastBitNo_toNat]; omega
    · have := congrArg BitVec.toNat hb
      simp [txAccept] at this
      omega
    · simp only [txAccept, lastBitNo_toNat] at hle ⊢
      rw [show i = frameLength par - 2 by omega]
      exact loadShift_stop b
  · rw [ht]; exact ⟨hon, hlt, hidle, hlast, hones, htop, timerBelow_pred htimer hbelow⟩
  · -- The next bit: the one that goes on the line is the last of the ones when the counter reaches 0.
    rw [ht]
    have hidle' : ∀ {Q : Prop}, t.phase = .idle → Q := fun hp => absurd hp (by simp [hbusy])
    have hbpos := toNat_pos_of_ne_zero hb
    refine ⟨hon, ?_, hidle', fun _ hb0 => ?_, fun _ i hi hle => ?_, txShiftOut_top _, timerBelow_reload _⟩
    · simp only [toNat_sub_one hb]; omega
    · have hzero : t.bitno.toNat - 1 = 0 := by rw [← toNat_sub_one hb]; exact congrArg BitVec.toNat hb0
      exact hones hbusy 0 (by omega) (by omega)
    · simp only [toNat_sub_one hb] at hle
      simp only [txShiftOut_getLsbD _ hi, Bool.or_eq_true, beq_iff_eq]
      by_cases hstop : i = frameLength par - 2
      · exact .inl hstop
      · exact .inr (hones hbusy (i + 1) (by omega) (by omega))
  · rw [ht]
    exact ⟨hon, hlt, fun _ => ⟨hlast hbusy hb, hb⟩, LinePhase.noConfusion, LinePhase.noConfusion, htop, hbelow⟩

/-- The engine writes the line layer only. -/
theorem txEngine_frame (o : Option Byte) (t : TxDir) :
    (txEngine par o t).enable = t.enable ∧ (txEngine par o t).divisor = t.divisor := by
  rcases txEngine_cases par o t with ⟨-, -, ht⟩ | ⟨b, -, -, ht⟩ | ⟨-, -, ht⟩ | ⟨-, -, -, ht⟩ | ⟨-, -, -, ht⟩ <;>
    rw [ht] <;> exact ⟨rfl, rfl⟩

/-- The engine runs exactly in an enabled direction that is not being disabled. -/
theorem txRuns_iff (c : TxCtl) (t : TxDir) : txRuns c t = true ↔ t.enable = true ∧ c.enable ≠ some false := by
  simp [txRuns]

/-- A tick with `rst = 0` keeps the invariant whatever register operation is presented. -/
theorem txStep_keeps_inv (c : TxCtl) (h : TxInv par t) : TxInv par (txStep par c t) := by
  cases hrun : txRuns c t with
  | true =>
    obtain ⟨hon, hkeep⟩ := (txRuns_iff c t).1 hrun
    have hengine := txEngine_keeps_inv c.byte hon h
    have hstep : txStep par c t = txApplyOp c (txEngine par c.byte t) := by simp [txStep, hrun]
    obtain ⟨fen, fdiv⟩ := txEngine_frame (par := par) c.byte t
    obtain ⟨en, div, -, phase, timer, bit, shreg, line⟩ := txApplyOp_fields c (txEngine par c.byte t)
    rw [hstep]
    refine txInv_of_sameLineLayer hengine ?_ ?_ phase timer bit shreg line
    · rw [en, fen, hon]; exact enable_of_not_disabled hkeep
    · rw [div, fen, hon]; cases c.phy <;> rfl
  | false =>
    rw [txStep_held par c t hrun]
    obtain ⟨-, -, -, phase, timer, bit, shreg, line⟩ := txApplyOp_fields c (txHold t)
    exact txInv_of_inReset phase timer bit shreg line

theorem txInv_reset (P : Params) : TxInv par (TxDir.reset P) := txInv_of_inReset rfl rfl rfl rfl rfl

end Tx

/-! ### The Sequencer keeps its invariant -/

theorem seqInv_reset (P : Params) : SeqInv P (Sequencer.reset P) :=
  ⟨Nat.zero_le _, fun _ => rfl, fun _ => ⟨rfl, rfl⟩, Nat.zero_le _, Nat.succ_pos _, Bool.noConfusion,
    List.length_replicate⟩

/-- A tick with `rst = 0` keeps the invariant, provided no receive offer is taken once all `W` have been. -/
theorem seqStep_keeps_inv {P : Params} {q : Sequencer} {took : Bool} (gave : Option Byte)
    (htook : took = true → q.phase = .receiveData → q.oCnt ≠ P.W) (h : SeqInv P q) :
    SeqInv P (seqStep P took gave q) := by
  have hW : P.W = P.lastByte + 1 := rfl
  obtain ⟨haIdx, haddr, hcnt, ho, hi, hack, hlen⟩ := h
  have hnoAck : q.phase ≠ .deselect → ∀ {Q : Prop}, q.ack = true → Q := fun hp _ ha => absurd (hack ha) hp
  have htaken : q.phase = .receiveData → q.oCnt + took.toNat ≤ P.W := fun hp => by
    cases took with
    | false => exact ho
    | true => exact Nat.lt_of_le_of_ne ho (htook rfl hp)
  rcases seqStep_cases P took gave q with
    ⟨-, -, hq⟩ | ⟨hp, -, hq⟩ | ⟨-, -, hq⟩ | ⟨hp, -, ha, hq⟩ | ⟨hp, -, ha, hq⟩ | ⟨hp, -, hq⟩ | ⟨b, hp, -, hb, hq⟩ |
    ⟨b, hp, -, -, hq⟩ | ⟨hp, -, hq⟩ | ⟨hp, -, hq⟩
  · rw [hq]; exact ⟨haIdx, haddr, hcnt, ho, hi, hack, hlen⟩
  · rw [hq]
    exact ⟨Nat.le_refl 2, fun h => absurd rfl h, fun _ => hcnt (by simp [hp]), ho, hi, hnoAck (by simp [hp]),
      List.length_replicate⟩
  · rw [hq]; exact ⟨haIdx, haddr, hcnt, ho, hi, hack, hlen⟩
  · rw [hq]
    refine ⟨?_, fun h => absurd hp h, hcnt, ho, hi, hack, hlen⟩
    simp only [toNat_sub_one ha]; omega
  · rw [hq]
    exact ⟨haIdx, fun _ => ha, fun h => absurd rfl h, ho, hi, hnoAck (by simp [hp]), hlen⟩
  · rw [hq]
    exact ⟨haIdx, haddr, fun h => absurd hp h, htaken hp, hi, hack, hlen⟩
  · rw [hq]
    refine ⟨haIdx, haddr, fun h => absurd hp h, htaken hp, ?_, hack, List.length_set.trans hlen⟩
    show q.iCnt + 1 < P.W
    omega
  · rw [hq]
    exact ⟨haIdx, fun _ => haddr (by simp [hp]), fun _ => ⟨rfl, rfl⟩, Nat.zero_le _, Nat.succ_pos _, fun _ => rfl,
      List.length_set.trans hlen⟩
  · rw [hq]; exact ⟨haIdx, haddr, hcnt, ho, hi, Bool.noConfusion, hlen⟩
  · rw [hq]
    exact ⟨haIdx, fun _ => haddr (by simp [hp]), fun _ => hcnt (by simp [hp]), ho, hi, Bool.noConfusion, hlen⟩

/-! ### What the outbound lane offers in each phase -/

section Offer

variable {q : Sequencer} (P : Params) (p : Ports)

/-- The command byte of a request that qualifies (44_qspi_sequencer.md rule R151). -/
theorem offer_idle (h : q.phase = .idle) :
    outValid P p q = qualifies p ∧ outItem p q = { mode := .txSingle, payload := Config.cmdRead } := by
  simp [outValid, outItem, h]

/-- The address byte of the index (44_qspi_sequencer.md rule R153). -/
theorem offer_sendAddress (h : q.phase = .sendAddress) :
    outValid P p q = true ∧
    outItem p q = { mode := .txSingle, payload := addressByte p.reqAddress q.aIdx.toNat } := by
  simp [outValid, outItem, h]

/-- A receive offer until `W` of them have been taken (44_qspi_sequencer.md rule R155). -/
theorem offer_receiveData (h : q.phase = .receiveData) :
    outValid P p q = (q.oCnt != P.W) ∧ outItem p q = { mode := .rxData, payload := Config.dummyPayload } := by
  simp [outValid, outItem, h]

/-- The deselect item (44_qspi_sequencer.md rule R161). -/
theorem offer_deselect (h : q.phase = .deselect) :
    outValid P p q = true ∧ outItem p q = { mode := .deselect, payload := Config.dummyPayload } := by
  simp [outValid, outItem, h]

end Offer

theorem inReady_iff (q : Sequencer) : inReady q = true ↔ q.phase = .receiveData := by simp [inReady]

theorem qualifies_iff (p : Ports) : qualifies p = true ↔ p.reqValid = true ∧ p.reqIsRead = true := by simp [qualifies]

/-- An address byte is a digit of the address to base 256 (20_memory.md rule R40). -/
theorem addressByte_toNat (a : FlashAddr) (k : Nat) : (addressByte a k).toNat = a.toNat / 256 ^ k % 256 := by
  rw [addressByte, BitVec.extractLsb'_toNat, Nat.shiftRight_eq_div_pow, Nat.pow_mul]

/-- Settles O60: a tick with `rst = 0` puts the registers and the offer of the phase on the outputs. -/
theorem drivenOutputsAreThoseOfTheState : Obligations.DrivenOutputsAreThoseOfTheState := by
  intro op p s hrst
  simp only [tick_run op s hrst, runTick_ack, runTick_data, runTick_txLine, runTick_inReady, runTick_outValid,
    runTick_outItem]
  refine ⟨trivial, trivial, trivial, inReady_iff _, fun hp => ?_, fun hp => ?_, fun hp => ?_, fun hp => ?_⟩
  · obtain ⟨hvalid, hitem⟩ := offer_idle s.cfg p hp
    exact ⟨by rw [hvalid, qualifies_iff], hitem⟩
  · obtain ⟨hvalid, hitem⟩ := offer_sendAddress s.cfg p hp
    exact ⟨hvalid, by rw [hitem], by rw [hitem, addressByte_toNat]⟩
  · obtain ⟨hvalid, hitem⟩ := offer_receiveData s.cfg p hp
    exact ⟨by rw [hvalid, bne_iff_ne], hitem⟩
  · exact offer_deselect s.cfg p hp

/-! ### The invariant of the whole machine -/

/-- A tick takes a receive offer only while fewer than `W` have been taken (44_qspi_sequencer.md rule R155). -/
theorem oCnt_ne_of_outXfer {P : Params} {p : Ports} {q : Sequencer} (h : (outXfer P p q).isSome = true)
    (hp : q.phase = .receiveData) : q.oCnt ≠ P.W := by
  rw [outXfer_isSome, (offer_receiveData P p hp).1, Bool.and_eq_true, bne_iff_ne] at h
  obtain ⟨hleft, -⟩ := h
  exact hleft

/-- Settles O51: in reset every counter and timer is 0 and the line rests at 1. -/
theorem resetStateHasTheInvariant : Obligations.ResetStateHasTheInvariant :=
  fun P => ⟨rxInv_reset P, txInv_reset P, seqInv_reset P⟩

/-- Every tick keeps the invariant, under any inputs and any register operation. -/
theorem tick_keeps_goodState (op : BusOp) (p : Ports) (s : State) (h : GoodState s) : GoodState (tick op p s) := by
  obtain ⟨hrx, htx, hseq⟩ := h
  cases hrst : p.rst with
  | true =>
    rw [tick_reset op s hrst]
    exact ⟨rxInv_reset s.cfg, txInv_reset s.cfg, seqInv_reset s.cfg⟩
  | false =>
    rw [tick_run op s hrst]
    exact ⟨rxStep_keeps_inv _ _ hrx, txStep_keeps_inv _ htx, seqStep_keeps_inv _ oCnt_ne_of_outXfer hseq⟩

/-- Every operation keeps the invariant. -/
theorem exec_keeps_goodState {i : Instr} {s t : State} (hs : GoodState s) (h : exec i s = .next t) : GoodState t :=
  exec_keeps (I := GoodState) (fun _ _ hu => hu) tick_keeps_goodState hs h

/-- Settles O50: a step is an operation on the loaded state, an operation is a run of ticks, and in each tick each
machine keeps its own invariant. -/
theorem everyStepKeepsTheInvariant : Obligations.EveryStepKeepsTheInvariant := by
  intro s t hs h
  obtain ⟨i, -, hexec⟩ := step_eq_next h
  have hload : GoodState (loadSlot s) := hs
  exact exec_keeps_goodState hload hexec

/-! ### How an operation ends -/

/-- A state right after a tick of the line, on a state of the same build and reset input as `s`. -/
def AfterLineTick (s v : State) : Prop :=
  ∃ level u, v = lineTick level u ∧ u.cfg = s.cfg ∧ u.ports.rst = s.ports.rst

/-- One more tick of the line leaves such a state. -/
theorem afterLineTick_lineTick {s v : State} (b : Bool) (h : AfterLineTick s v) : AfterLineTick s (lineTick b v) := by
  obtain ⟨level, u, rfl, hcfg, hrst⟩ := h
  exact ⟨b, lineTick level u, rfl, by simpa using hcfg, by simpa using hrst⟩

/-- A frame whose bits last ends with a tick of the line. -/
theorem afterLineTick_driveLine {d : Nat} (hd : d ≠ 0) (b : Bool) (rest : List Bool) (s : State) :
    AfterLineTick s (driveLine d (b :: rest) s) := by
  obtain ⟨n, rfl⟩ := Nat.exists_eq_succ_of_ne_zero hd
  have hkept : ∀ b v, AfterLineTick s v → AfterLineTick s (lineTick b v) := fun b _ => afterLineTick_lineTick b
  have hfirst : AfterLineTick s (lineTick b s) := ⟨b, s, rfl, rfl, rfl⟩
  rw [driveLine_cons, holdLine_succ]
  exact driveLine_keeps hkept _ _ _ (holdLine_keeps hkept _ _ _ hfirst)

/-- A line frame drives a first level and those after it, `rx_divisor` ticks each. -/
theorem exec_eq_driveLine {i : Instr} (hl : isLineFrame i = true) (s : State) :
    ∃ b rest, exec i s = .next (driveLine s.rx.divisor.toNat (b :: rest) s) := by
  cases i with
  | uartFrame8N1 f | uartFrame8P1 f _ => exact ⟨f.start, _, rfl⟩
  | _ => cases hl

/-- An operation that takes a tick goes on, and ends with a tick on a state of the same build, under the reset input it
began with. -/
theorem exec_ends_with_tick {i : Instr} {s : State} (h : TakesATick i s) :
    ∃ op p u, exec i s = .next (tick op p u) ∧ u.cfg = s.cfg ∧ p.rst = s.ports.rst := by
  obtain ⟨hused, hlasts⟩ := h
  cases hl : isLineFrame i with
  | false => exact ⟨_, _, _, exec_eq_tick hl hused s, rfl, (tickPorts_sameLevels i s).rst⟩
  | true =>
    obtain ⟨b, rest, hexec⟩ := exec_eq_driveLine hl s
    have hd : s.rx.divisor.toNat ≠ 0 := (toNat_pos_of_ne_zero (hlasts hl)).ne'
    obtain ⟨level, u, hdrive, hcfg, hrst⟩ := afterLineTick_driveLine hd b rest s
    exact ⟨noOp, { u.ports with rxLine := level, loopback := false }, u, by rw [hexec, hdrive]; rfl, hcfg, hrst⟩

/-- Settles O9: the last tick of the operation is a reset tick, which loads every element. -/
theorem resetTickLoadsEveryResetValue : Obligations.ResetTickLoadsEveryResetValue := by
  intro i s hrst htakes
  obtain ⟨op, p, u, hexec, hcfg, hp⟩ := exec_ends_with_tick htakes
  rw [tick_reset op u (hp.trans hrst)] at hexec
  refine ⟨_, hexec, hcfg, ?_, ?_, ?_⟩
  · rw [resetTick_rx, hcfg]; rfl
  · rw [resetTick_tx, hcfg]; rfl
  · rw [resetTick_seq, hcfg]; rfl

end Sys2Proof.Machine

/-! SUPPORT. What a step does with the slot at the head of the schedule; and the proofs of the statements of
20_memory.md. -/

namespace Sys2Proof.Machine

section Scheduled

variable {s : State} {slot : Slot} {rest : List Slot}

/-- The slot taken is the head of the schedule. -/
theorem nextSlot_of_cons (h : s.schedule = slot :: rest) : nextSlot s = slot := by simp [nextSlot, h]

/-- Loading puts the levels of the head on the ports and leaves the tail scheduled. -/
theorem loadSlot_of_cons (h : s.schedule = slot :: rest) :
    loadSlot s = (s.withPorts slot.ports).withSchedule rest := by
  rw [loadSlot, nextSlot_of_cons h, h, List.tail_cons]

end Scheduled

/-- A step whose slot decodes to no operation is refused for the decoder's reason. -/
theorem step_of_decode_error {s : State} {why : Reject} (h : decode s.cfg (nextSlot s).op = .error why) :
    step s = .refused (.undecodable why) := by simp [step, h]

/-- Settles O5: the slot taken is the head of the schedule, and the decoder's answer to it decides the step. -/
theorem stepRunsTheDecodedOperation : Obligations.StepRunsTheDecodedOperation := by
  intro s slot rest h
  constructor
  case left =>
    intro i hdec
    rw [← nextSlot_of_cons h] at hdec
    rw [step_of_decode_ok hdec, loadSlot_of_cons h]
  case right =>
    intro why hdec
    rw [← nextSlot_of_cons h] at hdec
    exact step_of_decode_error hdec

end Sys2Proof.Machine

/-! SUPPORT. How the word of each port is made of its fields and gives them back, what the decoder reads from each; and the
proofs of the statements of 30_encoding.md about words. -/

namespace Sys2Proof

/-! ### Words on a port of fewer wires -/

/-- The bits above the `k` wires of a port are clear exactly in the words below `2 ^ k`. -/
theorem extractLsb'_above_eq_zero_iff {k n : Nat} (h : k + n = 16) (bits : BitVec 16) :
    bits.extractLsb' k n = 0 ↔ bits.toNat < 2 ^ k := by
  have hlt : bits.toNat / 2 ^ k < 2 ^ n := by
    rw [Nat.div_lt_iff_lt_mul (Nat.two_pow_pos k), ← Nat.pow_add, Nat.add_comm n k, h]; exact bits.isLt
  rw [BitVec.toNat_eq, BitVec.extractLsb'_toNat, Nat.shiftRight_eq_div_pow, Nat.mod_eq_of_lt hlt]
  simp

/-- A word written at the width of its port has nothing above it. -/
theorem setWidth_extractLsb'_above {k n : Nat} (h : k + n = 16) (x : BitVec k) :
    (x.setWidth 16).extractLsb' k n = 0 :=
  (extractLsb'_above_eq_zero_iff h _).2 (Laws.EncodeFits.bits_fit x (Nat.le_refl k))

/-- A word with nothing above its port is what its wires carry. -/
theorem setWidth_extractLsb'_zero {k n : Nat} (h : k + n = 16) {bits : BitVec 16} (hlow : bits.extractLsb' k n = 0) :
    (bits.extractLsb' 0 k).setWidth 16 = bits := by
  have hlt := (extractLsb'_above_eq_zero_iff h bits).1 hlow
  apply BitVec.eq_of_toNat_eq
  simp [Nat.mod_eq_of_lt hlt, Nat.mod_eq_of_lt bits.isLt]

/-- A single wire read as a field of one bit. -/
theorem ofBool_getLsbD (bits : BitVec 16) (k : Nat) : BitVec.ofBool (bits.getLsbD k) = bits.extractLsb' k 1 := by
  ext j hj
  obtain rfl : j = 0 := by omega
  simp

/-- Two neighbouring fields are one. -/
theorem append_fields {bits : BitVec 16} {start len mid len' : Nat} (h : mid = start + len) :
    bits.extractLsb' mid len' ++ bits.extractLsb' start len = bits.extractLsb' start (len' + len) :=
  BitVec.extractLsb'_append_extractLsb'_eq_extractLsb' h

/-- What a decoder that refuses some words answers for the others. -/
theorem guard_eq_ok {c : Prop} [Decidable c] {why : Reject} {x : Except Reject Instr} {i : Instr} :
    (if c then .error why else x) = .ok i ↔ ¬ c ∧ x = .ok i := by
  split <;> simp [*]

/-! ### Register operations (30_encoding.md rule R61) -/

theorem encode_csrInstr (P : Params) (we : Bool) (r : Reg) (w : BusWord) :
    encode P (csrInstr we r w) = encodeCsr P.layout we r (if we then w else 0) := by
  cases we <;> cases r <;> rfl

theorem csrInstr_wf (P : Params) (we : Bool) (r : Reg) (w : BusWord) : (csrInstr we r w).wf P = true := by
  cases we <;> cases r <;> rfl

/-- In a layout without clashes a register operation is read back from its selector. -/
theorem decode_encodeCsr {P : Params} (hP : P.wf) (we : Bool) (r : Reg) (w : BusWord) :
    decode P (encodeCsr P.layout we r w) = .ok (csrInstr we r w) := by
  simp only [decode, encodeCsr, decodeCsr, csrSelector_above, csrSelector_offset, csrSelector_we,
    Layout.regAt_offset hP, ne_eq, not_true_eq_false, if_false]

/-- The direction and the offset are all of a selector. -/
theorem csrSelector_fields {bits : BitVec 16} (h : bits.extractLsb' 11 5 = 0) :
    csrSelector (bits.getLsbD 10) (bits.extractLsb' 0 10) = bits := by
  rw [csrSelector, ofBool_getLsbD, append_fields (start := 0) (mid := 10) rfl]
  exact setWidth_extractLsb'_zero (n := 5) rfl h

/-- What a selector is read as: the operation of its direction and of the register at its offset. -/
theorem decodeCsr_eq_ok {L : Layout} {bits : BitVec 16} {w : BusWord} {i : Instr} (h : decodeCsr L bits w = .ok i) :
    ∃ we r, i = csrInstr we r w ∧ csrSelector we (L.offset r) = bits := by
  obtain ⟨habove, h⟩ := guard_eq_ok.1 h
  split at h
  · cases h
  · next r hr =>
    refine ⟨_, r, (Except.ok.inj h).symm, ?_⟩
    rw [Layout.offset_of_regAt hr, csrSelector_fields (not_not.1 habove)]

/-! ### Line frames (30_encoding.md rules R63, R64, R72) -/

/-- The ten levels of a frame as a word, the start level lowest (30_encoding.md rule R63). -/
def frameWord8N1 (f : FramedByte) : BitVec 10 := BitVec.ofBool f.stop ++ f.byte ++ BitVec.ofBool f.start

/-- The eleven levels of a frame as a word, the start level lowest (30_encoding.md rule R64). -/
def frameWord8P1 (f : FramedByte) (p : Bool) : BitVec 11 :=
  BitVec.ofBool f.stop ++ BitVec.ofBool p ++ f.byte ++ BitVec.ofBool f.start

theorem encode_uartFrame8N1 (P : Params) (f : FramedByte) :
    encode P (.uartFrame8N1 f) = { format := .line, bits := (frameWord8N1 f).setWidth 16, operand := 0 } := rfl

theorem encode_uartFrame8P1 (P : Params) (f : FramedByte) (p : Bool) :
    encode P (.uartFrame8P1 f p) = { format := .line, bits := (frameWord8P1 f p).setWidth 16, operand := 0 } := rfl

/-- The frame a word of ten levels is. -/
def frameOf8N1 (bits : BitVec 16) : FramedByte :=
  { start := bits.getLsbD 0, byte := bits.extractLsb' 1 8, stop := bits.getLsbD 9 }

/-- The frame a word of eleven levels is, but for its parity bit. -/
def frameOf8P1 (bits : BitVec 16) : FramedByte :=
  { start := bits.getLsbD 0, byte := bits.extractLsb' 1 8, stop := bits.getLsbD 10 }

theorem frameOf8N1_frameWord (f : FramedByte) : frameOf8N1 ((frameWord8N1 f).setWidth 16) = f := by
  have hbyte : ((frameWord8N1 f).setWidth 16).extractLsb' 1 8 = f.byte := by
    rw [BitVec.extractLsb'_setWidth_of_le (by decide), frameWord8N1, BitVec.extractLsb'_append_eq_of_le (by decide)]
    exact BitVec.extractLsb'_append_eq_right
  rw [frameOf8N1, hbyte]
  simp only [frameWord8N1, BitVec.getLsbD_setWidth, BitVec.getLsbD_append, BitVec.getLsbD_ofBool]
  rfl

theorem frameOf8P1_frameWord (f : FramedByte) (p : Bool) : frameOf8P1 ((frameWord8P1 f p).setWidth 16) = f := by
  have hbyte : ((frameWord8P1 f p).setWidth 16).extractLsb' 1 8 = f.byte := by
    rw [BitVec.extractLsb'_setWidth_of_le (by decide), frameWord8P1, BitVec.extractLsb'_append_eq_of_le (by decide)]
    exact BitVec.extractLsb'_append_eq_right
  rw [frameOf8P1, hbyte]
  simp only [frameWord8P1, BitVec.getLsbD_setWidth, BitVec.getLsbD_append, BitVec.getLsbD_ofBool]
  rfl

theorem frameWord8P1_parity (f : FramedByte) (p : Bool) : ((frameWord8P1 f p).setWidth 16).getLsbD 9 = p := by
  simp only [frameWord8P1, BitVec.getLsbD_setWidth, BitVec.getLsbD_append, BitVec.getLsbD_ofBool]
  rfl

theorem frameWord8N1_frameOf {bits : BitVec 16} (h : bits.extractLsb' 10 6 = 0) :
    (frameWord8N1 (frameOf8N1 bits)).setWidth 16 = bits := by
  simp only [frameWord8N1, frameOf8N1, ofBool_getLsbD]
  rw [append_fields (start := 1) (mid := 9) rfl, append_fields (start := 0) (mid := 1) rfl]
  exact setWidth_extractLsb'_zero (n := 6) rfl h

theorem frameWord8P1_frameOf {bits : BitVec 16} (h : bits.extractLsb' 11 5 = 0) :
    (frameWord8P1 (frameOf8P1 bits) (bits.getLsbD 9)).setWidth 16 = bits := by
  simp only [frameWord8P1, frameOf8P1, ofBool_getLsbD]
  rw [append_fields (start := 9) (mid := 10) rfl, append_fields (start := 1) (mid := 9) rfl,
    append_fields (start := 0) (mid := 1) rfl]
  exact setWidth_extractLsb'_zero (n := 5) rfl h

theorem decodeLine_none (bits : BitVec 16) : decodeLine .none bits =
    if bits.extractLsb' 10 6 ≠ 0 then .error .bitsAboveFormat else .ok (.uartFrame8N1 (frameOf8N1 bits)) := rfl

theorem decodeLine_parity {par : Parity} (h : par ≠ .none) (bits : BitVec 16) : decodeLine par bits =
    if bits.extractLsb' 11 5 ≠ 0 then .error .bitsAboveFormat
    else .ok (.uartFrame8P1 (frameOf8P1 bits) (bits.getLsbD 9)) := by
  cases par with
  | none => exact absurd rfl h
  | _ => rfl

theorem decodeLine_encode8N1 (P : Params) (f : FramedByte) :
    decodeLine .none (encode P (.uartFrame8N1 f)).bits = .ok (.uartFrame8N1 f) := by
  rw [decodeLine_none, encode_uartFrame8N1, guard_eq_ok, not_not, frameOf8N1_frameWord]
  exact ⟨setWidth_extractLsb'_above rfl _, rfl⟩

theorem decodeLine_encode8P1 (P : Params) (f : FramedByte) (p : Bool) {par : Parity} (h : par ≠ .none) :
    decodeLine par (encode P (.uartFrame8P1 f p)).bits = .ok (.uartFrame8P1 f p) := by
  rw [decodeLine_parity h, encode_uartFrame8P1, guard_eq_ok, not_not, frameOf8P1_frameWord, frameWord8P1_parity]
  exact ⟨setWidth_extractLsb'_above rfl _, rfl⟩

theorem frameLength_of_parity {par : Parity} (h : par ≠ .none) : Machine.frameLength par = 11 := by
  cases par with
  | none => exact absurd rfl h
  | _ => rfl

/-- A word of the build's frame length is read as a frame. -/
theorem decodeLine_of_fits {par : Parity} {bits : BitVec 16} (h : bits.toNat < 2 ^ Machine.frameLength par) :
    ∃ i, decodeLine par bits = .ok i := by
  by_cases hpar : par = .none
  · subst hpar
    exact ⟨_, guard_eq_ok.2 ⟨not_not.2 ((extractLsb'_above_eq_zero_iff rfl bits).2 h), rfl⟩⟩
  · rw [frameLength_of_parity hpar] at h
    rw [decodeLine_parity hpar]
    exact ⟨_, guard_eq_ok.2 ⟨not_not.2 ((extractLsb'_above_eq_zero_iff rfl bits).2 h), rfl⟩⟩

/-- A word with a bit above the build's frame length is refused. -/
theorem decodeLine_of_long {par : Parity} {bits : BitVec 16} (h : 2 ^ Machine.frameLength par ≤ bits.toNat) :
    decodeLine par bits = .error .bitsAboveFormat := by
  by_cases hpar : par = .none
  · subst hpar
    exact if_pos fun hz => Nat.not_lt.2 h ((extractLsb'_above_eq_zero_iff rfl bits).1 hz)
  · rw [frameLength_of_parity hpar] at h
    rw [decodeLine_parity hpar]
    exact if_pos fun hz => Nat.not_lt.2 h ((extractLsb'_above_eq_zero_iff rfl bits).1 hz)

/-- What a line word is read as: a frame of the build, with the word's levels. -/
theorem decodeLine_eq_ok {P : Params} {bits : BitVec 16} {i : Instr} (h : decodeLine P.parity bits = .ok i) :
    i.wf P = true ∧ (encode P i).format = .line ∧ (encode P i).bits = bits := by
  by_cases hpar : P.parity = .none
  · rw [hpar, decodeLine_none, guard_eq_ok, not_not] at h
    obtain ⟨habove, h⟩ := h
    cases h
    exact ⟨by simp [Instr.wf, hpar], rfl, frameWord8N1_frameOf habove⟩
  · rw [decodeLine_parity hpar, guard_eq_ok, not_not] at h
    obtain ⟨habove, h⟩ := h
    cases h
    exact ⟨by simp [Instr.wf, hpar], rfl, frameWord8P1_frameOf habove⟩

/-! ### Lane items (30_encoding.md rules R65, R68) -/

theorem laneWord_mode (mode : BitVec 2) (payload : Byte) : ((mode ++ payload).setWidth 16).extractLsb' 8 2 = mode := by
  rw [BitVec.extractLsb'_setWidth_of_le (by decide)]; exact BitVec.extractLsb'_append_eq_left

theorem laneWord_payload (mode : BitVec 2) (payload : Byte) :
    ((mode ++ payload).setWidth 16).extractLsb' 0 8 = payload := by
  rw [BitVec.extractLsb'_setWidth_of_le (by decide)]; exact BitVec.extractLsb'_append_eq_right

/-- Mode and payload are all of a lane item's word. -/
theorem laneWord_fields {bits : BitVec 16} (h : bits.extractLsb' 10 6 = 0) :
    (bits.extractLsb' 8 2 ++ bits.extractLsb' 0 8).setWidth 16 = bits := by
  rw [append_fields (start := 0) (mid := 8) rfl]
  exact setWidth_extractLsb'_zero (n := 6) rfl h

/-- An item by its mode, once its word is taken apart (30_encoding.md rule R65). -/
def laneInstr (mode : BitVec 2) (payload : Byte) (position : Nat) : Except Reject Instr :=
  if mode = 1 then decodeTxSingle payload position
  else if mode = 3 then .error .laneModeThree
  else if payload ≠ Config.dummyPayload then .error .lanePayload
  else if mode = 2 then .ok .seqRxOffer
  else .ok .seqDeselect

theorem decodeLane_eq (bits : BitVec 16) (position : BusWord) : decodeLane bits position =
    if bits.extractLsb' 10 6 ≠ 0 then .error .bitsAboveFormat
    else laneInstr (bits.extractLsb' 8 2) (bits.extractLsb' 0 8) position.toNat := rfl

theorem decode_encodeLane (P : Params) (mode : BitVec 2) (payload : Byte) (position : BusWord) :
    decode P (encodeLane mode payload position) = laneInstr mode payload position.toNat := by
  have habove := setWidth_extractLsb'_above (k := 10) (n := 6) rfl (mode ++ payload)
  simp only [decode, encodeLane, decodeLane_eq, laneWord_mode, laneWord_payload, habove, ne_eq,
    not_true_eq_false, if_false]

/-- What a single-lane item is read as has its payload. -/
theorem decodeTxSingle_eq_ok {P : Params} {payload : Byte} {position : Nat} {i : Instr}
    (h : decodeTxSingle payload position = .ok i) :
    i.wf P = true ∧ ∃ x, encode P i = encodeLane 1 payload x := by
  unfold decodeTxSingle at h
  split at h
  · split at h
    · next hcmd => cases h; exact ⟨rfl, 0, by rw [hcmd]; rfl⟩
    · cases h
  · cases h; exact ⟨rfl, 1, rfl⟩
  · cases h; exact ⟨rfl, 2, rfl⟩
  · cases h; exact ⟨rfl, 3, rfl⟩
  · cases h

/-- What an item is read as has its mode and payload. -/
theorem laneInstr_eq_ok {P : Params} {mode : BitVec 2} {payload : Byte} {position : Nat} {i : Instr}
    (h : laneInstr mode payload position = .ok i) :
    i.wf P = true ∧ ∃ x, encode P i = encodeLane mode payload x := by
  unfold laneInstr at h
  by_cases hsingle : mode = 1
  · rw [if_pos hsingle] at h
    rw [hsingle]; exact decodeTxSingle_eq_ok h
  · rw [if_neg hsingle, guard_eq_ok, guard_eq_ok, not_not] at h
    obtain ⟨hthree, hdummy, h⟩ := h
    rw [hdummy]
    split at h
    · next hoffer => cases h; exact ⟨rfl, 4, by rw [hoffer]; rfl⟩
    · next hoffer =>
      have hrest : ∀ m : BitVec 2, m ≠ 1 → m ≠ 3 → m ≠ 2 → m = 0 := by decide
      have hzero : mode = 0 := hrest mode hsingle hthree hoffer
      cases h; exact ⟨rfl, _, by rw [hzero]; rfl⟩

theorem decodeLane_eq_ok {P : Params} {bits : BitVec 16} {position : BusWord} {i : Instr}
    (h : decodeLane bits position = .ok i) :
    i.wf P = true ∧ (encode P i).format = .lane ∧ (encode P i).bits = bits := by
  rw [decodeLane_eq, guard_eq_ok, not_not] at h
  obtain ⟨habove, h⟩ := h
  obtain ⟨hwf, x, henc⟩ := laneInstr_eq_ok (P := P) h
  exact ⟨hwf, by rw [henc]; rfl, by rw [henc]; exact laneWord_fields habove⟩

/-! ### Inbound bytes, requests and opcodes (30_encoding.md rules R66, R67, R71) -/

/-- A byte on a port of eight wires is read back. -/
theorem extractLsb'_setWidth_byte (b : Byte) : (b.setWidth 16).extractLsb' 0 8 = b := by
  rw [BitVec.extractLsb'_setWidth_of_le (by decide)]; exact BitVec.extractLsb'_eq_self

theorem decodeLaneIn_byte (b : Byte) : decodeLaneIn (b.setWidth 16) = .ok (.seqRxByte b) := by
  rw [decodeLaneIn, guard_eq_ok, not_not, extractLsb'_setWidth_byte]
  exact ⟨setWidth_extractLsb'_above rfl b, rfl⟩

theorem decodeLaneIn_eq_ok {P : Params} {bits : BitVec 16} {i : Instr} (h : decodeLaneIn bits = .ok i) :
    i.wf P = true ∧ (encode P i).format = .laneIn ∧ (encode P i).bits = bits := by
  rw [decodeLaneIn, guard_eq_ok, not_not] at h
  obtain ⟨habove, h⟩ := h
  cases h
  exact ⟨rfl, rfl, setWidth_extractLsb'_zero rfl habove⟩

theorem encode_requestInstr (P : Params) (valid isRead : Bool) (a : FlashAddr) :
    encode P (Machine.requestInstr valid isRead a) = encodeReq valid isRead a := by
  cases valid <;> cases isRead <;> rfl

theorem requestInstr_wf (P : Params) (valid isRead : Bool) (a : FlashAddr) :
    (Machine.requestInstr valid isRead a).wf P = true := by
  cases valid <;> cases isRead <;> rfl

/-- A request is read as the one its two bits and the address make. -/
theorem decodeReq_eq (bits : BitVec 16) (x : BusWord) : decodeReq bits x =
    if bits.extractLsb' 2 14 ≠ 0 then .error .bitsAboveFormat
    else .ok (Machine.requestInstr (bits.getLsbD 1) (bits.getLsbD 0) (x.extractLsb' 0 24)) := by
  unfold decodeReq
  cases bits.getLsbD 1 <;> cases bits.getLsbD 0 <;> rfl

theorem decodeReq_eq_ok {P : Params} {bits : BitVec 16} {x : BusWord} {i : Instr} (h : decodeReq bits x = .ok i) :
    i.wf P = true ∧ (encode P i).format = .req ∧ (encode P i).bits = bits := by
  rw [decodeReq_eq, guard_eq_ok, not_not] at h
  obtain ⟨habove, h⟩ := h
  cases h
  rw [encode_requestInstr]
  refine ⟨requestInstr_wf .., rfl, ?_⟩
  simp only [encodeReq, ofBool_getLsbD]
  rw [append_fields (start := 0) (mid := 1) rfl]
  exact setWidth_extractLsb'_zero (n := 14) rfl habove

/-- The operation of a flash opcode. -/
def flashInstr (opcode : Byte) : Except Reject Instr :=
  if opcode = Config.cmdRead then .ok .flashRead
  else if opcode = 0x0B then .ok .flashUnused0B
  else if opcode = 0x3B then .ok .flashUnused3B
  else if opcode = 0x6B then .ok .flashUnused6B
  else if opcode = 0xBB then .ok .flashUnusedBB
  else if opcode = 0xEB then .ok .flashUnusedEB
  else .error .flashOpcodeUnlisted

theorem decodeFlashCmd_eq (bits : BitVec 16) : decodeFlashCmd bits =
    if bits.extractLsb' 8 8 ≠ 0 then .error .bitsAboveFormat else flashInstr (bits.extractLsb' 0 8) := rfl

theorem decode_encodeFlashCmd (P : Params) (opcode : Byte) :
    decode P (encodeFlashCmd opcode) = flashInstr opcode := by
  have habove := setWidth_extractLsb'_above (k := 8) (n := 8) rfl opcode
  simp only [decode, encodeFlashCmd, decodeFlashCmd_eq, extractLsb'_setWidth_byte, habove, ne_eq, not_true_eq_false,
    if_false]

/-- What an opcode is read as is a row with that opcode. -/
theorem flashInstr_eq_ok {P : Params} {opcode : Byte} {i : Instr} (h : flashInstr opcode = .ok i) :
    i.wf P = true ∧ encode P i = encodeFlashCmd opcode := by
  unfold flashInstr at h
  split_ifs at h with hop hop hop hop hop hop <;> cases h <;> exact ⟨rfl, by rw [hop]; rfl⟩

theorem decodeFlashCmd_eq_ok {P : Params} {bits : BitVec 16} {i : Instr} (h : decodeFlashCmd bits = .ok i) :
    i.wf P = true ∧ (encode P i).format = .flashCmd ∧ (encode P i).bits = bits := by
  rw [decodeFlashCmd_eq, guard_eq_ok, not_not] at h
  obtain ⟨habove, h⟩ := h
  obtain ⟨hwf, henc⟩ := flashInstr_eq_ok (P := P) h
  exact ⟨hwf, by rw [henc]; rfl, by rw [henc]; exact setWidth_extractLsb'_zero rfl habove⟩

/-! ### The statements -/

/-- What decodes to an operation is one of the build, and the operation is encoded with the format and bits read. -/
theorem decode_eq_ok {P : Params} {r : RawOp} {i : Instr} (h : decode P r = .ok i) :
    i.wf P = true ∧ (encode P i).format = r.format ∧ (encode P i).bits = r.bits := by
  obtain ⟨format, bits, operand⟩ := r
  cases format with
  | csr =>
    obtain ⟨we, reg, rfl, hsel⟩ := decodeCsr_eq_ok h
    rw [encode_csrInstr]
    exact ⟨csrInstr_wf .., rfl, hsel⟩
  | line => exact decodeLine_eq_ok h
  | lane => exact decodeLane_eq_ok h
  | laneIn => exact decodeLaneIn_eq_ok h
  | req => exact decodeReq_eq_ok h
  | flashCmd => exact decodeFlashCmd_eq_ok h

/-- In a build without register clashes every operation of the build is read back from its encoding. -/
theorem decode_encode {P : Params} (hP : P.wf) {i : Instr} (hi : i.wf P = true) : decode P (encode P i) = .ok i := by
  cases i with
  | rdRxConfig | wrRxConfig _ | rdRxPhyConfig | wrRxPhyConfig _ | rdRxStatus | wrRxStatus _ | rdRxData | wrRxData _
  | rdTxConfig | wrTxConfig _ | rdTxPhyConfig | wrTxPhyConfig _ | rdTxStatus | wrTxStatus _ | rdTxData | wrTxData _ =>
    exact decode_encodeCsr hP _ _ _
  | seqCmdRead | seqAddr2 _ | seqAddr1 _ | seqAddr0 _ | seqRxOffer | seqDeselect => exact decode_encodeLane P _ _ _
  | seqRxByte b => exact decodeLaneIn_byte b
  | uartFrame8N1 f =>
    have hpar : P.parity = .none := by simpa [Instr.wf] using hi
    have hline := decodeLine_encode8N1 P f
    rwa [← hpar] at hline
  | uartFrame8P1 f p => exact decodeLine_encode8P1 P f p (by simpa [Instr.wf] using hi)
  | reqRead _ | reqWrite _ | reqNone _ _ => exact Machine.decode_encodeReq P _ _ _
  | flashRead | flashUnused0B | flashUnused3B | flashUnused6B | flashUnusedBB | flashUnusedEB =>
    exact decode_encodeFlashCmd P _

/-- Settles O1: `decode_encode`, and for a line word the frame length of the build decides. -/
theorem decodeGivesBackEveryEncodedOperation : Obligations.DecodeGivesBackEveryEncodedOperation := by
  intro P hP
  refine ⟨fun i hi => decode_encode hP hi, fun bits x => ⟨fun hfits => ?_, fun hlong => decodeLine_of_long hlong⟩⟩
  obtain ⟨i, hdec⟩ := decodeLine_of_fits hfits
  obtain ⟨hwf, -, hbits⟩ := decodeLine_eq_ok hdec
  exact ⟨i, hwf, hdec, hbits⟩

/-- Settles O2: each port's word is put together again from the fields the decoder read. -/
theorem decodedOperationHasTheBitsRead : Obligations.DecodedOperationHasTheBitsRead :=
  fun _ _ _ h => decode_eq_ok h

/-- Settles O3: the worked encodings evaluate to what rule R77 says; the `RxData` read for every word beside it, by
`decode_encodeCsr`. -/
theorem workedEncodingsDecode : Obligations.WorkedEncodingsDecode :=
  ⟨rfl, fun w => decode_encodeCsr (P := Config.thisHardware) layout_wf false .rxData w, rfl, rfl, rfl, rfl, rfl, rfl, rfl⟩

/-- Settles O8: the meanings of the five opcodes are that refusal. -/
theorem unusedFlashOpcodesAreRefused : Obligations.UnusedFlashOpcodesAreRefused :=
  fun _ => ⟨rfl, rfl, rfl, rfl, rfl⟩

end Sys2Proof

/-! SUPPORT. What the two reads of `getc` do to a full buffer, and the proof of the statement of 30_encoding.md about
`getc`. -/

namespace Sys2Proof.Machine

/-- A received byte that nothing consumes stays: a running direction with its buffer full keeps byte and `ready`. -/
theorem rxStep_keeps_full {par : Parity} {r : RxDir} (level : Bool) (hen : r.enable = true) (hready : r.ready = true) :
    (rxStep par {} level r).ready = true ∧ (rxStep par {} level r).buf = r.buf := by
  rw [rxStep_idle_run par level r hen]
  have hkept : (rxEngine par level r).ready = true ∧ (rxEngine par level r).buf = r.buf := by
    rw [rxEngine_frame]; exact ⟨hready, rfl⟩
  obtain ⟨hfull, hbuf⟩ := hkept
  rcases rxApplyEvent_cases (rxEvent par {} level r) (rxEngine par level r) with
    ⟨-, hr⟩ | ⟨b, -, hempty, -⟩ | ⟨b, -, -, hr⟩ | ⟨-, hr⟩
  · rw [hr]; exact ⟨hfull, hbuf⟩
  · rw [hfull] at hempty; cases hempty
  · rw [hr]; exact ⟨hfull, hbuf⟩
  · rw [hr]; exact ⟨hfull, hbuf⟩

/-- A consume of a full buffer leaves `ready` clear, whatever arrives in its tick. -/
theorem rxStep_consume_clears {par : Parity} {r : RxDir} (level : Bool) (hready : r.ready = true) :
    (rxStep par { consume := true } level r).ready = false := by
  obtain ⟨ev, r', hstep⟩ :
      ∃ ev r', rxStep par { consume := true } level r = rxApplyOp { consume := true } ev r.ready r' := ⟨_, _, rfl⟩
  obtain ⟨-, -, -, hafter, -⟩ := rxApplyOp_fields { consume := true } ev r.ready r'
  rw [hstep, hafter, hready]
  simp

/-- A poll of `RxStatus` for `ready` succeeds at its first read when the flag is set. -/
theorem rxStatusWord_ready (error overflow : Bool) : rxStatusWord error overflow true &&& 1 = 1 := by
  cases error <;> cases overflow <;> rfl

/-- A poll whose first read matches ends with that read. -/
theorem poll_succ_of_match {r : Reg} {mask want : BusWord} {s t : State} (n : Nat) (hafter : after (rd r) s = some t)
    (hmatch : t.out.rdata.getD 0 &&& mask = want) : poll r mask want (n + 1) s = some t := by
  rw [poll, hafter]; exact if_pos hmatch

/-- The state after the read of `RxStatus`. -/
theorem after_rdRxStatus {s : State} (hrst : s.ports.rst = false) : after (rd .rxStatus) s =
    some (runTick { rdata := some (rxStatusWord s.rx.error s.rx.overflow s.rx.ready) } s.ports s) :=
  congrArg some (tick_run _ s hrst)

/-- The state after the read of `RxData`. -/
theorem after_rdRxData {s : State} (hrst : s.ports.rst = false) : after (rd .rxData) s =
    some (runTick { rx := { consume := true }, rdata := some (byteWord s.rx.buf) } s.ports s) :=
  congrArg some (tick_run _ s hrst)

/-- With a byte buffered the poll of `getc` succeeds at its first read, and the byte is still there after it. -/
theorem poll_rxStatus_of_ready {s : State} (n : Nat) (hrst : s.ports.rst = false) (hen : s.rx.enable = true)
    (hready : s.rx.ready = true) :
    ∃ t, poll .rxStatus 1 1 (n + 1) s = some t ∧ t.ports.rst = false ∧ t.rx.ready = true ∧ t.rx.buf = s.rx.buf := by
  refine ⟨_, poll_succ_of_match n (after_rdRxStatus hrst) ?_, ?_, ?_⟩
  · rw [runTick_rdata, hready]; exact rxStatusWord_ready ..
  · rw [runTick_ports, dropOnAck_rst, hrst]
  · rw [runTick_rx]; exact rxStep_keeps_full _ hen hready

/-- A direction that holds a byte is enabled (10_state.md rule R24). -/
theorem enable_of_ready {par : Parity} {r : RxDir} (hinv : RxInv par r) (hready : r.ready = true) : r.enable = true := by
  obtain ⟨hdis, -⟩ := hinv
  by_contra hoff
  obtain ⟨hclear, -⟩ := hdis (by simpa using hoff)
  rw [hclear] at hready; cases hready

/-- Settles O58: the poll finds the byte and leaves it (`poll_rxStatus_of_ready`), and the read that follows returns and
consumes it (`rxStep_consume_clears`). -/
theorem getcReturnsTheBufferedByte : Obligations.GetcReturnsTheBufferedByte := by
  intro bound s hgood hrst hready
  obtain ⟨hinv, -, -⟩ := hgood
  obtain ⟨t, hpoll, hrst', hfull, hbuf⟩ := poll_rxStatus_of_ready bound hrst (enable_of_ready hinv hready) hready
  refine ⟨_, by rw [getc, hpoll]; exact after_rdRxData hrst', ?_, ?_⟩
  · rw [runTick_rdata, hbuf, BitVec.ofNat_toNat]; rfl
  · rw [runTick_rx]; exact rxStep_consume_clears _ hfull

end Sys2Proof.Machine

/-! SUPPORT. A frame driven on the line: the other machines tick as without it, the RX direction runs on its own under the
levels, and a bit of at least three ticks is sampled once; and the proofs of the statements of 30_encoding.md about
frames. -/

namespace Sys2Proof.Machine

/-! ### What goes on beside the line (00_scope.md rule R5) -/

/-- Everything a tick reads but the RX direction is the same. -/
structure SameButRx (s t : State) : Prop where
  cfg   : s.cfg = t.cfg
  tx    : s.tx = t.tx
  seq   : s.seq = t.seq
  ports : s.ports = t.ports
  peer  : s.peer = t.peer

/-- A level on the line reaches the RX direction only. -/
theorem lineTick_sameButRx {s t : State} (b : Bool) (h : SameButRx s t) : SameButRx (lineTick b s) (idleTick t) := by
  obtain ⟨cfg, rx, tx, seq, ports, peer, lineSeen, out, schedule⟩ := s
  obtain ⟨rfl, rfl, rfl, rfl, rfl⟩ := h
  unfold lineTick idleTick tick
  split <;> constructor <;> rfl

theorem holdLine_sameButRx (n : Nat) (b : Bool) {s t : State} (h : SameButRx s t) :
    SameButRx (holdLine n b s) (idleTicks n t) := by
  induction n generalizing s t with
  | zero => exact h
  | succ n ih => exact ih (lineTick_sameButRx b h)

/-- While levels are driven on the line the other machines do what they do in as many ticks without it. -/
theorem driveLine_sameButRx (d : Nat) (l : List Bool) {s t : State} (h : SameButRx s t) :
    SameButRx (driveLine d l s) (idleTicks (l.length * d) t) := by
  induction l generalizing s t with
  | nil => simpa using h
  | cons b rest ih =>
    have hfirst := ih (holdLine_sameButRx d b h)
    rwa [← idleTicks_add, Nat.add_comm, ← Nat.succ_mul] at hfirst

/-! ### The RX direction under the levels -/

/-- The RX direction after a level held for `n` ticks. -/
def rxHeld (par : Parity) (n : Nat) (level : Bool) (r : RxDir) : RxDir := (rxStep par {} level)^[n] r

/-- The RX direction after levels driven one after another, `d` ticks each. -/
def rxDriven (par : Parity) (d : Nat) (levels : List Bool) (r : RxDir) : RxDir :=
  levels.foldl (fun r level => rxHeld par d level r) r

theorem lineTick_rx {s : State} (b : Bool) (hrst : s.ports.rst = false) :
    (lineTick b s).rx = rxStep s.cfg.parity {} b s.rx := by
  rw [lineTick, tick_run _ _ (by exact hrst)]; rfl

theorem holdLine_rx (n : Nat) (b : Bool) {s : State} (hrst : s.ports.rst = false) :
    (holdLine n b s).rx = rxHeld s.cfg.parity n b s.rx := by
  induction n generalizing s with
  | zero => rfl
  | succ n ih =>
    rw [holdLine_succ, ih (by simpa using hrst), lineTick_rx b hrst, lineTick_cfg]
    rfl

theorem holdLine_cfg (n : Nat) (b : Bool) (s : State) : (holdLine n b s).cfg = s.cfg :=
  holdLine_keeps (I := fun u => u.cfg = s.cfg) (fun _ _ h => by simpa using h) n b s rfl

theorem holdLine_rst (n : Nat) (b : Bool) (s : State) : (holdLine n b s).ports.rst = s.ports.rst :=
  holdLine_keeps (I := fun u => u.ports.rst = s.ports.rst) (fun _ _ h => by simpa using h) n b s rfl

theorem driveLine_rx (d : Nat) (l : List Bool) {s : State} (hrst : s.ports.rst = false) :
    (driveLine d l s).rx = rxDriven s.cfg.parity d l s.rx := by
  induction l generalizing s with
  | nil => rfl
  | cons b rest ih =>
    rw [driveLine_cons, ih (by rw [holdLine_rst, hrst]), holdLine_rx d b hrst, holdLine_cfg]
    rfl

theorem rxHeld_add (par : Parity) (m n : Nat) (level : Bool) (r : RxDir) :
    rxHeld par (m + n) level r = rxHeld par n level (rxHeld par m level r) := by
  rw [rxHeld, Nat.add_comm, Function.iterate_add_apply]; rfl

/-! ### One tick of a running receiver (41_uart_rx.md rules R93 to R96) -/

section Tick

variable {par : Parity} {r : RxDir}

/-- Away from the last sample a tick has no event. -/
theorem rxStep_of_no_event (level : Bool) (hen : r.enable = true)
    (h : ¬ (r.phase = .busy ∧ r.timer = 0 ∧ r.bitno = 0)) : rxStep par {} level r = rxEngine par level r := by
  have hnone : rxEvent par {} level r = .none := by
    by_contra hev
    obtain ⟨-, hbusy, htimer, hbit, -⟩ := rxEvent_ne_none par {} level r hev
    exact h ⟨hbusy, htimer, hbit⟩
  rw [rxStep_idle_run par level r hen, hnone]; rfl

theorem rxStep_rest (hen : r.enable = true) (hidle : r.phase = .idle) : rxStep par {} true r = r := by
  rw [rxStep_of_no_event _ hen (by simp [hidle])]; simp [rxEngine, hidle]

theorem rxStep_start (hen : r.enable = true) (hidle : r.phase = .idle) :
    rxStep par {} false r = { r with phase := .busy, timer := r.divisor >>> 1, bitno := lastBitNo par } := by
  rw [rxStep_of_no_event _ hen (by simp [hidle])]; simp [rxEngine, hidle]

theorem rxStep_count (level : Bool) (hen : r.enable = true) (hbusy : r.phase = .busy) (htimer : r.timer ≠ 0) :
    rxStep par {} level r = { r with timer := r.timer - 1 } := by
  rw [rxStep_of_no_event _ hen fun ⟨_, hzero, _⟩ => htimer hzero]
  simp only [rxEngine, hbusy, htimer, ne_eq, not_false_eq_true, if_true]

theorem rxStep_sample (level : Bool) (hen : r.enable = true) (hbusy : r.phase = .busy) (htimer : r.timer = 0)
    (hbit : r.bitno ≠ 0) : rxStep par {} level r =
      { r with shreg := rxShiftIn par level r.shreg, timer := r.divisor - 1, bitno := r.bitno - 1 } := by
  rw [rxStep_of_no_event _ hen fun ⟨_, _, hlast⟩ => hbit hlast]
  simp only [rxEngine, hbusy, htimer, hbit, ne_eq, not_true_eq_false, not_false_eq_true, if_true, if_false]

/-- The last sample ends the frame, which is judged in its tick. -/
theorem rxStep_last (level : Bool) (hen : r.enable = true) (hbusy : r.phase = .busy) (htimer : r.timer = 0)
    (hbit : r.bitno = 0) : rxStep par {} level r =
      rxApplyEvent (judgeFrame par (rxShiftIn par level r.shreg))
        { r with shreg := rxShiftIn par level r.shreg, timer := r.divisor - 1, phase := .idle } := by
  rw [rxStep_idle_run par level r hen]
  simp [rxEvent, rxRuns, rxEngine, hen, hbusy, htimer, hbit]

/-! ### Levels held -/

theorem rxHeld_rest (n : Nat) (hen : r.enable = true) (hidle : r.phase = .idle) : rxHeld par n true r = r :=
  Function.iterate_fixed (rxStep_rest hen hidle) n

/-- Inside a bit the timer counts down and nothing else happens, whatever the level. -/
theorem rxHeld_count (level : Bool) (hen : r.enable = true) (hbusy : r.phase = .busy) {n : Nat}
    (hn : n ≤ r.timer.toNat) :
    rxHeld par n level r = { r with timer := BitVec.ofNat 24 (r.timer.toNat - n) } := by
  induction n with
  | zero => simp [rxHeld]
  | succ n ih =>
    have hlt := r.timer.isLt
    have hpos : BitVec.ofNat 24 (r.timer.toNat - n) ≠ 0 := by
      simp [BitVec.toNat_eq]; omega
    rw [rxHeld, Function.iterate_succ_apply', ← rxHeld, ih (by omega),
      rxStep_count level (by exact hen) (by exact hbusy) (by exact hpos)]
    congr 1
    apply BitVec.eq_of_toNat_eq
    rw [toNat_sub_one hpos]
    simp; omega

/-- The tick after the timer has run down, and `n` more. -/
theorem rxHeld_past_zero (level : Bool) (hen : r.enable = true) (hbusy : r.phase = .busy) {m n : Nat}
    (hm : m = r.timer.toNat + (1 + n)) :
    rxHeld par m level r = rxHeld par n level (rxStep par {} level { r with timer := 0 }) := by
  rw [hm, rxHeld_add, rxHeld_count level hen hbusy (Nat.le_refl _), Nat.sub_self, rxHeld_add]
  rfl

/-- A receiver that waits takes no sample in the first half bit of a level. -/
theorem rxHeld_half_bit (level : Bool) (hen : r.enable = true) (hidle : r.phase = .idle) {n : Nat}
    (hn : n ≤ r.divisor.toNat / 2 + 1) :
    ∃ ph ti bi, rxHeld par n level r = { r with phase := ph, timer := ti, bitno := bi } ∧
      (level = true → ph = .idle ∧ ti = r.timer ∧ bi = r.bitno) := by
  cases level with
  | true => exact ⟨r.phase, r.timer, r.bitno, rxHeld_rest n hen hidle, fun _ => ⟨hidle, rfl, rfl⟩⟩
  | false =>
    cases n with
    | zero => exact ⟨r.phase, r.timer, r.bitno, rfl, Bool.noConfusion⟩
    | succ n =>
      rw [Nat.add_comm, rxHeld_add, show rxHeld par 1 false r = rxStep par {} false r from rfl, rxStep_start hen hidle,
        rxHeld_count false (by exact hen) rfl (by simp [Nat.shiftRight_eq_div_pow]; omega)]
      exact ⟨_, _, _, rfl, Bool.noConfusion⟩

/-- A bit inside a frame up to its sample, and `n` ticks more. -/
theorem rxHeld_past_sample (level : Bool) (hen : r.enable = true) (hbusy : r.phase = .busy) (hbit : r.bitno ≠ 0)
    {m n : Nat} (hm : m = r.timer.toNat + (1 + n)) :
    rxHeld par m level r = rxHeld par n level
      { r with shreg := rxShiftIn par level r.shreg, timer := r.divisor - 1, bitno := r.bitno - 1 } := by
  rw [rxHeld_past_zero level hen hbusy hm, rxStep_sample level (by exact hen) (by exact hbusy) rfl (by exact hbit)]

/-! ### Bits held -/

/-- A receiver inside a frame where one bit of the line ends and the next begins, with `m` more to sample before the last
one: the sample is half a bit and a tick away. -/
def rxBetweenBits (r : RxDir) (m : BitVec 4) (x : BitVec 11) : RxDir :=
  { r with phase := .busy, timer := BitVec.ofNat 24 (r.divisor.toNat / 2 + 1), bitno := m, shreg := x }

/-- The ticks of a bit that follow its sample. -/
def ticksAfterSample (d : Divisor) : Nat := d.toNat - (d.toNat / 2 + 2)

/-- A bit is its ticks up to the sample, the sample, and the ticks after it. -/
theorem rxBetweenBits_ticks (hd : 3 ≤ r.divisor.toNat) (m : BitVec 4) (x : BitVec 11) :
    r.divisor.toNat = (rxBetweenBits r m x).timer.toNat + (1 + ticksAfterSample r.divisor) := by
  have hlt := r.divisor.isLt
  simp only [rxBetweenBits, BitVec.toNat_ofNat, ticksAfterSample]
  omega

/-- The ticks that follow the sample of a bit bring the timer to the distance of the next one. -/
theorem rxHeld_after_sample (level : Bool) (hen : r.enable = true) (hd : 3 ≤ r.divisor.toNat) (m : BitVec 4)
    (x : BitVec 11) :
    rxHeld par (ticksAfterSample r.divisor) level
        { r with phase := .busy, timer := r.divisor - 1, bitno := m, shreg := x } = rxBetweenBits r m x := by
  have hreload : (r.divisor - 1).toNat = r.divisor.toNat - 1 := toNat_sub_one fun h => by simp [h] at hd
  have hrest : r.divisor.toNat - 1 - ticksAfterSample r.divisor = r.divisor.toNat / 2 + 1 := by
    simp only [ticksAfterSample]; omega
  rw [rxHeld_count level (by exact hen) rfl (by simp only [hreload, ticksAfterSample]; omega), rxBetweenBits]
  simp only [hreload, hrest]

/-- The bit of the start level. -/
theorem rxHeld_start_bit (hen : r.enable = true) (hidle : r.phase = .idle) (hd : 3 ≤ r.divisor.toNat) :
    rxHeld par r.divisor.toNat false r = rxBetweenBits r (lastBitNo par - 1) (rxShiftIn par false r.shreg) := by
  have hbit : lastBitNo par ≠ 0 := by cases par <;> decide
  have hticks : r.divisor.toNat - 1 = (r.divisor >>> 1).toNat + (1 + ticksAfterSample r.divisor) := by
    simp only [BitVec.toNat_ushiftRight, Nat.shiftRight_eq_div_pow, ticksAfterSample]; omega
  have hfirst : rxHeld par r.divisor.toNat false r =
      rxHeld par (r.divisor.toNat - 1) false (rxStep par {} false r) := by
    rw [show rxStep par {} false r = rxHeld par 1 false r from rfl, ← rxHeld_add]; congr 1; omega
  rw [hfirst, rxStep_start hen hidle,
    rxHeld_past_sample false (by exact hen) rfl (by exact hbit) (by exact hticks)]
  exact rxHeld_after_sample false hen hd _ _

/-- A bit inside a frame. -/
theorem rxHeld_bit (level : Bool) (hen : r.enable = true) (hd : 3 ≤ r.divisor.toNat) {m : BitVec 4} (hm : m ≠ 0)
    (x : BitVec 11) : rxHeld par r.divisor.toNat level (rxBetweenBits r m x) =
      rxBetweenBits r (m - 1) (rxShiftIn par level x) := by
  rw [rxHeld_past_sample level (r := rxBetweenBits r m x) hen rfl hm (rxBetweenBits_ticks hd m x)]
  exact rxHeld_after_sample level hen hd _ _

/-- The last bit: it is judged at its sample, and the ticks after that are the next frame's. -/
theorem rxHeld_last_bit (level : Bool) (hen : r.enable = true) (hd : 3 ≤ r.divisor.toNat) (x : BitVec 11) :
    rxHeld par r.divisor.toNat level (rxBetweenBits r 0 x) =
      rxHeld par (ticksAfterSample r.divisor) level
        (rxApplyEvent (judgeFrame par (rxShiftIn par level x))
          { r with phase := .idle, timer := r.divisor - 1, bitno := 0, shreg := rxShiftIn par level x }) := by
  rw [rxHeld_past_zero level (r := rxBetweenBits r 0 x) hen rfl (rxBetweenBits_ticks hd 0 x),
    rxStep_last level (by exact hen) rfl rfl rfl]
  rfl

/-- The levels shifted in one after another. -/
def rxSamples (par : Parity) (levels : List Bool) (x : BitVec 11) : BitVec 11 :=
  levels.foldl (fun x level => rxShiftIn par level x) x

/-- The bits inside a frame, up to the last one. -/
theorem rxDriven_bits (hen : r.enable = true) (hd : 3 ≤ r.divisor.toNat) (l : List Bool) (hl : l.length < 16)
    (x : BitVec 11) : rxDriven par r.divisor.toNat l (rxBetweenBits r (BitVec.ofNat 4 l.length) x) =
      rxBetweenBits r 0 (rxSamples par l x) := by
  induction l generalizing x with
  | nil => rfl
  | cons b rest ih =>
    rw [List.length_cons] at hl ⊢
    have hbit : BitVec.ofNat 4 (rest.length + 1) ≠ 0 := by simp [BitVec.toNat_eq]; omega
    have hpred : BitVec.ofNat 4 (rest.length + 1) - 1 = BitVec.ofNat 4 rest.length := by
      apply BitVec.eq_of_toNat_eq; rw [toNat_sub_one hbit]; simp; omega
    rw [rxDriven, List.foldl_cons, rxHeld_bit b hen hd hbit, hpred]
    exact ih (by omega) _

/-- The event of a frame and the line layer are written apart. -/
theorem rxApplyEvent_lineLayer (ev : RxEvent) (r : RxDir) (ph : LinePhase) (ti : BitVec 24) (bi : BitVec 4)
    (x : BitVec 11) : rxApplyEvent ev { r with phase := ph, timer := ti, bitno := bi, shreg := x } =
      { rxApplyEvent ev r with phase := ph, timer := ti, bitno := bi, shreg := x } := by
  cases ev with
  | none | error => rfl
  | arrival b => cases hready : r.ready <;> simp [rxApplyEvent, raiseOverflow, hready]

/-- A whole frame from a waiting receiver: it is judged by its levels. After a stop level of 1 the receiver waits; after
one of 0 it may have taken the rest of that bit for a start bit. -/
theorem rxDriven_frame (hen : r.enable = true) (hidle : r.phase = .idle) (hd : 3 ≤ r.divisor.toNat) (mid : List Bool)
    (stop : Bool) (hmid : mid.length + 2 = frameLength par) :
    let x := rxSamples par (false :: mid ++ [stop]) r.shreg
    ∃ ph ti bi, rxDriven par r.divisor.toNat (false :: mid ++ [stop]) r =
        { rxApplyEvent (judgeFrame par x) r with phase := ph, timer := ti, bitno := bi, shreg := x } ∧
      (stop = true → ph = .idle ∧ ti = r.divisor - 1 ∧ bi = 0) := by
  intro x
  have hbits : lastBitNo par - 1 = BitVec.ofNat 4 mid.length := by
    rw [Nat.eq_sub_of_add_eq hmid]; cases par <;> rfl
  have hshort : mid.length < 16 := by
    rw [Nat.eq_sub_of_add_eq hmid]; cases par <;> decide
  have hframe : rxDriven par r.divisor.toNat (false :: mid ++ [stop]) r =
      rxHeld par r.divisor.toNat stop (rxDriven par r.divisor.toNat mid (rxHeld par r.divisor.toNat false r)) := by
    simp [rxDriven]
  have hsamples : rxShiftIn par stop (rxSamples par mid (rxShiftIn par false r.shreg)) = x := by simp [x, rxSamples]
  obtain ⟨hen', hdiv', -⟩ := rxApplyEvent_frame (judgeFrame par x) r
  rw [hframe, rxHeld_start_bit hen hidle hd, hbits, rxDriven_bits hen hd mid hshort, rxHeld_last_bit stop hen hd,
    hsamples, rxApplyEvent_lineLayer]
  exact rxHeld_half_bit (n := ticksAfterSample r.divisor) stop
    (r := { rxApplyEvent (judgeFrame par x) r with phase := .idle, timer := r.divisor - 1, bitno := 0, shreg := x })
    (hen'.trans hen) rfl (by simp only [hdiv', ticksAfterSample]; omega)

end Tick

/-! ### What the sample register holds after a frame (41_uart_rx.md rule R95) -/

/-- A sample moves every bit down by one and enters at the top. -/
theorem rxShiftIn_getLsbD (par : Parity) (level : Bool) (x : BitVec 11) {i : Nat} (hi : i < frameLength par) :
    (rxShiftIn par level x).getLsbD i = if i = frameLength par - 1 then level else x.getLsbD (i + 1) := by
  by_cases htop : i = frameLength par - 1
  · rw [if_pos htop, htop]
    cases par <;> simp only [rxShiftIn, frameLength, BitVec.getLsbD_append, BitVec.getLsbD_setWidth,
      BitVec.getLsbD_ofBool] <;> rfl
  · have hbelow : i < frameLength par - 1 := by omega
    rw [if_neg htop, ← Nat.add_comm 1 i]
    cases par with
    | none =>
      have hbelow : i < 9 := hbelow
      simp only [rxShiftIn, BitVec.getLsbD_setWidth, BitVec.getLsbD_append, BitVec.getLsbD_extractLsb', hbelow,
        show i < 11 by omega, if_true, decide_true, Bool.true_and]
    | _ =>
      have hbelow : i < 10 := hbelow
      simp only [rxShiftIn, BitVec.getLsbD_append, BitVec.getLsbD_extractLsb', hbelow, if_true, decide_true,
        Bool.true_and]

theorem rxSamples_cons (par : Parity) (b : Bool) (l : List Bool) (x : BitVec 11) :
    rxSamples par (b :: l) x = rxSamples par l (rxShiftIn par b x) := rfl

/-- The samples taken stand at the top, the first of them lowest. -/
theorem rxSamples_getLsbD {par : Parity} {l : List Bool} (hl : l.length ≤ frameLength par) (x : BitVec 11) {i : Nat}
    (hi : i < frameLength par) : (rxSamples par l x).getLsbD i =
      if i + l.length < frameLength par then x.getLsbD (i + l.length)
      else l.getD (i + l.length - frameLength par) false := by
  induction l generalizing x with
  | nil => simp [rxSamples, hi]
  | cons b l ih =>
    rw [List.length_cons] at hl ⊢
    rw [rxSamples_cons, ih (by omega)]
    by_cases hlast : i + l.length < frameLength par
    · rw [if_pos hlast, rxShiftIn_getLsbD par b x hlast]
      split
      · rw [if_neg (by omega), show i + (l.length + 1) - frameLength par = 0 by omega]; rfl
      · rw [if_pos (by omega)]; rfl
    · rw [if_neg hlast, if_neg (by omega),
        show i + (l.length + 1) - frameLength par = i + l.length - frameLength par + 1 by omega]
      rfl

/-- After a whole frame nothing older is left. -/
theorem rxSamples_frame {par : Parity} {l : List Bool} (hl : l.length = frameLength par) (x : BitVec 11) {i : Nat}
    (hi : i < frameLength par) : (rxSamples par l x).getLsbD i = l.getD i false := by
  rw [rxSamples_getLsbD (Nat.le_of_eq hl) x hi, if_neg (by omega), hl, Nat.add_sub_cancel]

@[simp] theorem dataLevels_length (b : Byte) : (dataLevels b).length = 8 := by simp [dataLevels]

theorem dataLevels_getD (b : Byte) {i : Nat} (hi : i < 8) : (dataLevels b).getD i false = b.getLsbD i := by
  simp [dataLevels, hi]

/-- The levels of a frame by their place: the start level, the data, and what follows. -/
theorem frame_getD (start : Bool) (b : Byte) (tail : List Bool) (i : Nat) :
    (start :: dataLevels b ++ tail).getD i false =
      if i = 0 then start else if i < 9 then b.getLsbD (i - 1) else tail.getD (i - 9) false := by
  cases i with
  | zero => rfl
  | succ i =>
    rw [List.cons_append, List.getD_cons_succ]
    by_cases hi : i < 8
    · rw [List.getD_append _ _ _ _ (by simpa using hi), dataLevels_getD b hi, if_neg (by omega), if_pos (by omega)]; rfl
    · rw [List.getD_append_right _ _ _ _ (by simpa using hi), if_neg (by omega), if_neg (by omega)]; simp

/-- A completed sample register has the frame's byte in its place. -/
theorem sampledByte_frame {par : Parity} {tail : List Bool} (hl : tail.length + 9 = frameLength par) (start : Bool)
    (b : Byte) (x : BitVec 11) : sampledByte (rxSamples par (start :: dataLevels b ++ tail) x) = b := by
  have hlen : (start :: dataLevels b ++ tail).length = frameLength par := by simp; omega
  apply BitVec.eq_of_getLsbD_eq
  intro i hi
  rw [sampledByte, BitVec.getLsbD_extractLsb', rxSamples_frame hlen x (by omega), frame_getD, if_neg (by omega),
    if_pos (by omega)]
  simp [hi]

/-! ### How a frame is judged (41_uart_rx.md rules R96, R98) -/

theorem levels8N1_length (f : FramedByte) : (levels8N1 f).length = 10 := by simp [levels8N1]

theorem levels8P1_length (f : FramedByte) (p : Bool) : (levels8P1 f p).length = 11 := by simp [levels8P1]

/-- A frame without parity is good when its start level is 0 and its stop level is 1. -/
theorem judgeFrame_8N1 (f : FramedByte) (x : BitVec 11) :
    judgeFrame .none (rxSamples .none (levels8N1 f) x) =
      if !f.start && f.stop then .arrival f.byte else .error := by
  have hlen : (levels8N1 f).length = frameLength .none := levels8N1_length f
  have hbyte : sampledByte (rxSamples .none (levels8N1 f) x) = f.byte :=
    sampledByte_frame (par := .none) rfl f.start f.byte x
  have hstart : (rxSamples .none (levels8N1 f) x).getLsbD 0 = f.start := by
    rw [rxSamples_frame hlen x (by decide)]; rfl
  have hstop : (rxSamples .none (levels8N1 f) x).getLsbD 9 = f.stop := by
    rw [rxSamples_frame hlen x (by decide), levels8N1, frame_getD]; rfl
  simp only [judgeFrame, frameGood, parityOk, hbyte, hstart, hstop, frameLength, Nat.add_one_sub_one]
  simp

/-- A frame with parity is good when its start level is 0, its stop level is 1 and its parity bit is the byte's. -/
theorem judgeFrame_8P1 {par : Parity} (hpar : par ≠ .none) (f : FramedByte) (p : Bool) (x : BitVec 11) :
    judgeFrame par (rxSamples par (levels8P1 f p) x) =
      if !f.start && f.stop && p == parityBit par f.byte then .arrival f.byte else .error := by
  have hN : frameLength par = 11 := frameLength_of_parity hpar
  have hlen : (levels8P1 f p).length = frameLength par := (levels8P1_length f p).trans hN.symm
  have hbyte : sampledByte (rxSamples par (levels8P1 f p) x) = f.byte :=
    sampledByte_frame (tail := [p, f.stop]) hN.symm f.start f.byte x
  have hstart : (rxSamples par (levels8P1 f p) x).getLsbD 0 = f.start := by
    rw [rxSamples_frame hlen x (by omega)]; rfl
  have hparity : (rxSamples par (levels8P1 f p) x).getLsbD 9 = p := by
    rw [rxSamples_frame hlen x (by omega), levels8P1, frame_getD]; rfl
  have hstop : (rxSamples par (levels8P1 f p) x).getLsbD 10 = f.stop := by
    rw [rxSamples_frame hlen x (by omega), levels8P1, frame_getD]; rfl
  have hcheck : (par == .none) = false := by simpa using hpar
  simp only [judgeFrame, frameGood, parityOk, hN, hbyte, hstart, hparity, hstop, hcheck, Bool.false_or]

/-! ### The word a ten-bit frame leaves behind -/

/-- The word of a ten-bit frame has the frame's levels. -/
theorem frameWord8N1_getLsbD (f : FramedByte) {i : Nat} (hi : i < 10) :
    (frameWord8N1 f).getLsbD i = (levels8N1 f).getD i false := by
  rw [levels8N1, frame_getD, frameWord8N1]
  simp only [BitVec.getLsbD_append, BitVec.getLsbD_ofBool, Nat.lt_one_iff]
  by_cases hstart : i = 0
  · simp [hstart]
  · by_cases hdata : i < 9
    · simp [hstart, hdata, show i - 1 < 8 by omega]
    · obtain rfl : i = 9 := by omega
      rfl

/-- The number the word of a ten-bit frame is. -/
theorem frameWord8N1_toNat (f : FramedByte) :
    (frameWord8N1 f).toNat = f.stop.toNat * 0x200 + 2 * f.byte.toNat + f.start.toNat := by
  have hb := f.byte.isLt
  rw [frameWord8N1, BitVec.toNat_append, BitVec.toNat_append, ← Nat.shiftLeft_add_eq_or_of_lt f.byte.isLt,
    ← Nat.shiftLeft_add_eq_or_of_lt (BitVec.isLt _)]
  simp only [Nat.shiftLeft_eq, BitVec.toNat_ofBool]
  omega

theorem rxSamples_concat (par : Parity) (l : List Bool) (b : Bool) (x : BitVec 11) :
    rxSamples par (l ++ [b]) x = rxShiftIn par b (rxSamples par l x) := by simp [rxSamples]

/-- A ten-bit frame leaves its word in the sample register. -/
theorem rxSamples_8N1 (f : FramedByte) (x : BitVec 11) :
    rxSamples .none (levels8N1 f) x = BitVec.ofNat 11 (f.stop.toNat * 0x200 + 2 * f.byte.toNat + f.start.toNat) := by
  have htop : (rxSamples .none (levels8N1 f) x).getLsbD 10 = false := by
    rw [levels8N1, rxSamples_concat]; exact rxShiftIn_top _ _ rfl
  rw [← frameWord8N1_toNat, BitVec.ofNat_toNat]
  apply BitVec.eq_of_getLsbD_eq
  intro i hi
  rw [BitVec.getLsbD_setWidth]
  by_cases hlow : i < 10
  · rw [rxSamples_frame (levels8N1_length f) x hlow, frameWord8N1_getLsbD f hlow]; simp [hi]
  · obtain rfl : i = 10 := by omega
    rw [htop]; simp

/-- A byte that arrives is stored in an empty buffer and lost to a full one (41_uart_rx.md rules R100, R101). -/
theorem rxApplyEvent_arrival (b : Byte) (r : RxDir) : rxApplyEvent (.arrival b) r =
    { r with buf := if r.ready = true then r.buf else b, ready := true, overflow := r.overflow || r.ready } := by
  obtain ⟨en, div, res, ready, overflow, error, buf, ph, ti, bi, sh⟩ := r
  cases ready <;> simp [rxApplyEvent, raiseOverflow]

/-! ### The statements about frames -/

/-- While a frame of `n` levels is driven the rest of the machine does what it does in as many bit times. -/
theorem driveLine_rest {l : List Bool} {n : Nat} (hl : l.length = n) (d : Nat) (s : State) :
    (driveLine d l s).cfg = s.cfg ∧ (driveLine d l s).tx = (idleTicks (n * d) s).tx ∧
    (driveLine d l s).seq = (idleTicks (n * d) s).seq ∧ (driveLine d l s).peer = (idleTicks (n * d) s).peer := by
  obtain ⟨hcfg, htx, hseq, -, hpeer⟩ := driveLine_sameButRx d l (s := s) (t := s) ⟨rfl, rfl, rfl, rfl, rfl⟩
  rw [hl] at hcfg htx hseq hpeer
  exact ⟨hcfg.trans (idleTicks_cfg s _), htx, hseq, hpeer⟩

section Frames

variable {s : State} (hrst : s.ports.rst = false) (hen : s.rx.enable = true) (hidle : s.rx.phase = .idle)

include hrst hen hidle

/-- A first level of 1 starts nothing (41_uart_rx.md rule R93). -/
theorem holdLine_rest_rx (n : Nat) : (holdLine n true s).rx = s.rx := by
  rw [holdLine_rx n true hrst, rxHeld_rest n hen hidle]

variable (hd : 3 ≤ s.rx.divisor.toNat)

include hd

/-- What a ten-bit frame does to the RX direction. -/
theorem driveLine_8N1_rx (hpar : s.cfg.parity = .none) (b : Byte) (stop : Bool) :
    ∃ ph ti bi, (driveLine s.rx.divisor.toNat (levels8N1 ⟨false, b, stop⟩) s).rx =
        { rxApplyEvent (if stop then .arrival b else .error) s.rx with
          phase := ph, timer := ti, bitno := bi, shreg := BitVec.ofNat 11 (stop.toNat * 0x200 + 2 * b.toNat) } ∧
      (stop = true → ph = .idle ∧ ti = s.rx.divisor - 1 ∧ bi = 0) := by
  rw [driveLine_rx _ _ hrst, hpar]
  obtain ⟨ph, ti, bi, hrx, hwait⟩ := rxDriven_frame (par := .none) hen hidle hd (dataLevels b) stop
    (by simp [frameLength])
  refine ⟨ph, ti, bi, hrx.trans ?_, hwait⟩
  rw [show false :: dataLevels b ++ [stop] = levels8N1 ⟨false, b, stop⟩ from rfl, judgeFrame_8N1, rxSamples_8N1]
  simp only [Bool.not_false, Bool.true_and, Bool.toNat_false, Nat.add_zero]

/-- What an eleven-bit frame does to the RX direction. -/
theorem driveLine_8P1_rx (hpar : s.cfg.parity ≠ .none) (b : Byte) (p stop : Bool) :
    ∃ ph ti bi x, (driveLine s.rx.divisor.toNat (levels8P1 ⟨false, b, stop⟩ p) s).rx =
        { rxApplyEvent (if stop && p == parityBit s.cfg.parity b then .arrival b else .error) s.rx with
          phase := ph, timer := ti, bitno := bi, shreg := x } ∧
      (stop = true → ph = .idle) := by
  have hlevels : levels8P1 ⟨false, b, stop⟩ p = false :: (dataLevels b ++ [p]) ++ [stop] := by simp [levels8P1]
  rw [driveLine_rx _ _ hrst, hlevels]
  obtain ⟨ph, ti, bi, hrx, hwait⟩ := rxDriven_frame (par := s.cfg.parity) hen hidle hd (dataLevels b ++ [p]) stop
    (by rw [frameLength_of_parity hpar]; simp)
  rw [← hlevels, judgeFrame_8P1 hpar] at hrx
  exact ⟨ph, ti, bi, _, by rw [← hlevels]; exact hrx, fun hstop => (hwait hstop).left⟩

end Frames

/-- Settles O30: the RX direction by `driveLine_8N1_rx`, the rest by `driveLine_rest`, and a first level of 1 by
`holdLine_rest_rx`. -/
theorem frame8N1IsReceived : Obligations.Frame8N1IsReceived := by
  intro b s hpar hrst hen hidle hd
  refine ⟨⟨_, rfl, ?_, driveLine_rest (levels8N1_length _) _ s⟩, ⟨_, rfl, ?_, driveLine_rest (levels8N1_length _) _ s⟩,
    fun stop => ⟨_, rfl, holdLine_rest_rx hrst hen hidle _, rfl, driveLine_rest (levels8N1_length _) _ s⟩⟩
  · obtain ⟨ph, ti, bi, hrx, hwait⟩ := driveLine_8N1_rx hrst hen hidle hd hpar b true
    obtain ⟨rfl, rfl, rfl⟩ := hwait rfl
    refine hrx.trans ?_
    rw [if_pos rfl, rxApplyEvent_arrival, ← hidle]
    rfl
  · obtain ⟨ph, ti, bi, hrx, -⟩ := driveLine_8N1_rx hrst hen hidle hd hpar b false
    have hrx' : (driveLine s.rx.divisor.toNat (levels8N1 ⟨false, b, false⟩) s).rx =
        { s.rx with error := true, phase := ph, timer := ti, bitno := bi, shreg := BitVec.ofNat 11 (2 * b.toNat) } := by
      rw [hrx]; simp [rxApplyEvent, raiseError]
    rw [hrx']

/-- Settles O31: the RX direction by `driveLine_8P1_rx`, the rest by `driveLine_rest`, and a first level of 1 by
`holdLine_rest_rx`. -/
theorem frame8P1IsReceivedOrItsParityErrs : Obligations.Frame8P1IsReceivedOrItsParityErrs := by
  intro b p s hpar hrst hen hidle hd
  refine ⟨fun stop => ?_, fun stop =>
    ⟨_, rfl, holdLine_rest_rx hrst hen hidle _, rfl, driveLine_rest (levels8P1_length _ p) _ s⟩⟩
  obtain ⟨ph, ti, bi, x, hrx, hwait⟩ := driveLine_8P1_rx hrst hen hidle hd hpar b p stop
  refine ⟨_, rfl, ?_⟩
  have hrest := driveLine_rest (levels8P1_length ⟨false, b, stop⟩ p) s.rx.divisor.toNat s
  by_cases hgood : (stop && p == parityBit s.cfg.parity b) = true
  · rw [if_pos hgood, rxApplyEvent_arrival] at hrx
    simp only [Bool.and_eq_true, beq_iff_eq] at hgood
    obtain ⟨hstop, hp⟩ := hgood
    rw [hrx]
    exact ⟨hen, rfl, rfl, hwait, fun _ _ => ⟨rfl, rfl, rfl, rfl⟩,
      fun hbad => absurd hbad (by simp [hstop, hp]), hrest⟩
  · rw [if_neg hgood] at hrx
    rw [hrx]
    exact ⟨hen, rfl, rfl, hwait, fun hp hstop => absurd (by simp [hstop, hp]) hgood, fun _ => ⟨rfl, rfl, rfl, rfl⟩,
      hrest⟩

end Sys2Proof.Machine

/-! SUPPORT. One tick of the machine as its receiver sees it: which event it has, what the event does to the buffer and
the flags, and what a disabled receiver keeps; and the proofs of the statements of 41_uart_rx.md about one tick and about
a line at rest. -/

namespace Sys2Proof.Machine

/-! ### The receiver's share of a tick (41_uart_rx.md rule R106) -/

theorem idleTick_rx {s : State} (hrst : s.ports.rst = false) :
    (idleTick s).rx = rxStep s.cfg.parity {} (lineLevel s.ports s.tx) s.rx := by
  rw [idleTick, tick_run _ _ hrst]; rfl

theorem idleTick_event {s : State} (hrst : s.ports.rst = false) :
    (idleTick s).out.event = rxEvent s.cfg.parity {} (lineLevel s.ports s.tx) s.rx := by
  rw [idleTick, tick_run _ _ hrst]; rfl

theorem lineTick_event {s : State} (b : Bool) (hrst : s.ports.rst = false) :
    (lineTick b s).out.event = rxEvent s.cfg.parity {} b s.rx := by
  rw [lineTick, tick_run _ _ (by exact hrst)]; rfl

section Tick

variable {par : Parity} {r : RxDir}

/-- Away from the last sample a tick has no event. -/
theorem rxEvent_eq_none (level : Bool) (h : ¬ (r.phase = .busy ∧ r.timer = 0 ∧ r.bitno = 0)) :
    rxEvent par {} level r = .none := by
  by_contra hev
  obtain ⟨-, hbusy, htimer, hbit, -⟩ := rxEvent_ne_none par {} level r hev
  exact h ⟨hbusy, htimer, hbit⟩

/-- The event of the last sample is the judgement of the frame. -/
theorem rxEvent_last (level : Bool) (hen : r.enable = true) (hbusy : r.phase = .busy) (htimer : r.timer = 0)
    (hbit : r.bitno = 0) : rxEvent par {} level r = judgeFrame par (rxShiftIn par level r.shreg) := by
  simp [rxEvent, rxRuns, hen, hbusy, htimer, hbit]

/-- A tick of a running receiver: the engine, the event, the register operation. -/
theorem rxStep_run {c : RxCtl} (level : Bool) (hrun : rxRuns c r = true) : rxStep par c level r =
    rxApplyOp c (rxEvent par c level r) r.ready (rxApplyEvent (rxEvent par c level r) (rxEngine par level r)) := by
  simp [rxStep, hrun]

/-- Buffer and flags after a tick with an event: the event of the tick writes them, then the register operation. -/
theorem rxStep_event_flags (c : RxCtl) (level : Bool) (h : rxEvent par c level r ≠ .none) :
    let ev := rxEvent par c level r
    let r' := rxStep par c level r
    r'.buf = (rxApplyEvent ev r).buf ∧
    r'.ready = ((rxApplyEvent ev r).ready && !(c.consume && !(ev.isArrival && !r.ready))) ∧
    r'.overflow = stickyNext (rxApplyEvent ev r).overflow c.clrOverflow (ev.isArrival && r.ready) ∧
    r'.error = stickyNext (rxApplyEvent ev r).error c.clrError ev.isError := by
  intro ev r'
  obtain ⟨hrun, -⟩ := rxEvent_ne_none par c level r h
  have hengine : rxApplyEvent ev (rxEngine par level r) =
      { rxApplyEvent ev r with
        phase := (rxEngine par level r).phase, timer := (rxEngine par level r).timer,
        bitno := (rxEngine par level r).bitno, shreg := (rxEngine par level r).shreg } := by
    rw [rxEngine_frame]; exact rxApplyEvent_lineLayer ..
  have hstep : r' = rxApplyOp c ev r.ready (rxApplyEvent ev (rxEngine par level r)) := rxStep_run level hrun
  obtain ⟨-, -, -, hready, hoverflow, herror, hbuf, -⟩ :=
    rxApplyOp_fields c ev r.ready (rxApplyEvent ev (rxEngine par level r))
  rw [← hstep, hengine] at hready hoverflow herror hbuf
  exact ⟨hbuf, hready, hoverflow, herror⟩

/-- A good frame has start level 0, stop level 1 and, with parity, the parity bit of its byte. -/
theorem frameGood_iff (x : BitVec 11) : frameGood par x = true ↔
    x.getLsbD 0 = false ∧ x.getLsbD (frameLength par - 1) = true ∧
      (par = .none ∨ x.getLsbD 9 = parityBit par (sampledByte x)) := by
  simp [frameGood, parityOk, and_assoc]

/-- The line layer after a tick that takes a sample: inside the frame the next bit is due, after the last one the
receiver waits. -/
theorem rxStep_at_zero (level : Bool) (hen : r.enable = true) (hbusy : r.phase = .busy) (htimer : r.timer = 0) :
    let r' := rxStep par {} level r
    r'.shreg = rxShiftIn par level r.shreg ∧ r'.timer = r.divisor - 1 ∧
    (r.bitno ≠ 0 → r'.bitno = r.bitno - 1 ∧ r'.phase = .busy) ∧ (r.bitno = 0 → r'.phase = .idle ∧ r'.bitno = 0) := by
  intro r'
  by_cases hbit : r.bitno = 0
  · have hlast : r' = _ := rxStep_last level hen hbusy htimer hbit
    obtain ⟨-, -, hphase, htimer', hbitno, hshreg⟩ := rxApplyEvent_frame (judgeFrame par (rxShiftIn par level r.shreg))
      { r with shreg := rxShiftIn par level r.shreg, timer := r.divisor - 1, phase := .idle }
    rw [hlast]
    exact ⟨hshreg, htimer', absurd hbit, fun _ => ⟨hphase, hbitno.trans hbit⟩⟩
  · have hsample : r' = _ := rxStep_sample level hen hbusy htimer hbit
    rw [hsample]
    exact ⟨rfl, rfl, fun _ => ⟨rfl, hbusy⟩, fun hzero => absurd hzero hbit⟩

/-- A disabled receiver in reset stays as it is, whatever the level. -/
theorem rxStep_disabled (level : Bool) (hinv : RxInv par r) (hoff : r.enable = false) : rxStep par {} level r = r := by
  obtain ⟨hreset, -⟩ := hinv
  obtain ⟨hready, hphase, htimer, hbit, hshreg⟩ := hreset hoff
  obtain ⟨-, hheld⟩ := rxStep_held par {} level r (by simp [rxRuns, hoff])
  rw [hheld, rxApplyOp_noStrobe _ _ _ (by simp [RxEvent.isArrival]) (by simp [RxEvent.isError]), rxHold, ← hready,
    ← hphase, ← htimer, ← hbit, ← hshreg]

theorem rxDriven_disabled (d : Nat) (levels : List Bool) (hinv : RxInv par r) (hoff : r.enable = false) :
    rxDriven par d levels r = r := by
  induction levels with
  | nil => rfl
  | cons level rest ih =>
    have hheld : rxHeld par d level r = r := Function.iterate_fixed (rxStep_disabled level hinv hoff) d
    rw [rxDriven, List.foldl_cons, hheld]; exact ih

end Tick

/-! ### The statements about one tick -/

/-- Settles O22: a level of 1 is `rxStep_rest`, one of 0 `rxStep_start`. -/
theorem rxWaitingTakesAZeroForAStartBit : Obligations.RxWaitingTakesAZeroForAStartBit := by
  intro s hrst hen hidle
  refine ⟨?_, fun hlow => ?_, fun hhigh => ?_⟩
  · rw [idleTick_event hrst, rxEvent_eq_none _ (by simp [hidle])]
  · have hhalf : s.rx.divisor >>> 1 = BitVec.ofNat 24 (s.rx.divisor.toNat / 2) := by
      apply BitVec.eq_of_toNat_eq
      simp [Nat.shiftRight_eq_div_pow]
      omega
    rw [idleTick_rx hrst, hlow, rxStep_start hen hidle, hhalf]; rfl
  · rw [idleTick_rx hrst, hhigh, rxStep_rest hen hidle]

/-- Settles O23, by `rxStep_count`. -/
theorem rxCountsDownInsideAFrame : Obligations.RxCountsDownInsideAFrame := by
  intro s hrst hen hbusy htimer
  have hpred : s.rx.timer - 1 = BitVec.ofNat 24 (s.rx.timer.toNat - 1) := by
    rw [← toNat_sub_one htimer, BitVec.ofNat_toNat, BitVec.setWidth_eq]
  refine ⟨?_, ?_⟩
  · rw [idleTick_event hrst, rxEvent_eq_none _ fun ⟨_, hzero, _⟩ => htimer hzero]
  · rw [idleTick_rx hrst, rxStep_count _ hen hbusy htimer, hpred]

/-- Settles O24: the line layer by `rxStep_at_zero`, the event by `frameGood_iff`. -/
theorem rxSamplesAndJudgesTheFrame : Obligations.RxSamplesAndJudgesTheFrame := by
  intro s hrst hen hbusy htimer N u
  have hpos := frameLength_pos s.cfg.parity
  obtain ⟨hshreg, htimer', hmore, hlast⟩ :=
    rxStep_at_zero (par := s.cfg.parity) (lineLevel s.ports s.tx) hen hbusy htimer
  rw [← idleTick_rx hrst] at hshreg htimer' hmore hlast
  refine ⟨fun k hk => ?_, ?_, htimer', fun hbit => ?_, fun hbit => ?_⟩
  · rw [hshreg, rxShiftIn_getLsbD _ _ _ (by omega), if_neg (by omega)]
  · rw [hshreg, rxShiftIn_getLsbD _ _ _ (by omega), if_pos rfl]
  · obtain ⟨hbitno, hphase⟩ := hmore hbit
    exact ⟨hbitno, hphase, by rw [idleTick_event hrst, rxEvent_eq_none _ fun ⟨_, _, hzero⟩ => hbit hzero]⟩
  · obtain ⟨hphase, hbitno⟩ := hlast hbit
    have hevent : u.out.event = judgeFrame s.cfg.parity u.rx.shreg := by
      rw [hshreg, ← rxEvent_last _ hen hbusy htimer hbit, ← idleTick_event hrst]
    have hgood := frameGood_iff (par := s.cfg.parity) u.rx.shreg
    rw [hevent]
    refine ⟨hphase, hbitno, ?_⟩
    rcases judgeFrame_cases s.cfg.parity u.rx.shreg with ⟨hyes, hev⟩ | ⟨hno, hev⟩
    · exact ⟨.inl hev, fun _ => hgood.1 hyes, fun _ => by simp [hev]⟩
    · exact ⟨.inr hev, fun hne => absurd hev hne, fun h => by simp [hgood.2 h] at hno⟩

/-- Settles O25: in a tick with an event buffer and flags are what the event and then the operation make of them
(`rxStep_event_flags`). -/
theorem rxEventsSetBufferAndFlags : Obligations.RxEventsSetBufferAndFlags := by
  intro op p s hrst t
  have hev : t.out.event = rxEvent s.cfg.parity op.rx (lineLevel p s.tx) s.rx := by
    simp only [t, tick_run op s hrst, runTick_event]
  have hrx : t.rx = rxStep s.cfg.parity op.rx (lineLevel p s.tx) s.rx := by
    simp only [t, tick_run op s hrst, runTick_rx]
  have hflags (hne : t.out.event ≠ .none) := rxStep_event_flags op.rx (lineLevel p s.tx) (hev ▸ hne)
  rw [← hrx, ← hev] at hflags
  refine ⟨fun b harr hempty => ?_, fun b harr hfull => ?_, fun herr => ?_⟩
  · obtain ⟨hbuf, hready, hoverflow, herror⟩ := hflags (by simp [harr])
    rw [hbuf, hready, hoverflow, herror, harr]
    simp [rxApplyEvent, hempty, RxEvent.isArrival, RxEvent.isError, stickyNext]
  · obtain ⟨hbuf, hready, hoverflow, herror⟩ := hflags (by simp [harr])
    rw [hbuf, hready, hoverflow, herror, harr]
    simp [rxApplyEvent, raiseOverflow, hfull, RxEvent.isArrival, RxEvent.isError, stickyNext]
  · obtain ⟨hbuf, hready, hoverflow, herror⟩ := hflags (by simp [herr])
    rw [hbuf, hready, hoverflow, herror, herr]
    simp [rxApplyEvent, raiseError, RxEvent.isArrival, RxEvent.isError, stickyNext]

/-! ### The statements about a line nothing is received from -/

/-- Settles O26, by `rxDriven_disabled`. -/
theorem disabledRxIgnoresTheLine : Obligations.DisabledRxIgnoresTheLine := by
  intro d levels s hgood hrst hoff
  obtain ⟨hinv, -, -⟩ := hgood
  rw [driveLine_rx d levels hrst, rxDriven_disabled d levels hinv hoff]

/-- Settles O27, by `holdLine_rest_rx`. -/
theorem restingLineStartsNoFrame : Obligations.RestingLineStartsNoFrame :=
  fun n _ hrst hen hidle => holdLine_rest_rx hrst hen hidle n

end Sys2Proof.Machine

/-! SUPPORT. A whole frame seen tick by tick, for any divisor but 0 and a level of its own in every tick: what is left
of the frame counts down by one a tick, the samples are the levels in the ticks a whole number of bits before its end,
and the last of them is judged; and the proofs of the statements of 41_uart_rx.md about a break and a false start. -/

namespace Sys2Proof.Machine

/-! ### A level of its own in every tick -/

/-- The RX direction after `n` ticks, with the level `lv m` in the tick numbered `m`. -/
def rxFed (par : Parity) (lv : Nat → Bool) : Nat → RxDir → RxDir
  | 0,     r => r
  | n + 1, r => rxStep par {} (lv n) (rxFed par lv n r)

theorem rxFed_succ (par : Parity) (lv : Nat → Bool) (n : Nat) (r : RxDir) :
    rxFed par lv (n + 1) r = rxStep par {} (lv n) (rxFed par lv n r) := rfl

/-- A level held is that level in every tick. -/
theorem rxHeld_eq_rxFed {par : Parity} {lv : Nat → Bool} {n : Nat} {level : Bool} (h : ∀ m < n, lv m = level)
    (r : RxDir) : rxHeld par n level r = rxFed par lv n r := by
  induction n with
  | zero => rfl
  | succ n ih =>
    rw [rxHeld, Function.iterate_succ_apply', ← rxHeld, ih fun m hm => h m (by omega), rxFed_succ, h n (by omega)]

/-- The last of `n + 1` ticks of a level apart. -/
theorem holdLine_last (n : Nat) (b : Bool) (s : State) : holdLine (n + 1) b s = lineTick b (holdLine n b s) := by
  rw [holdLine_add]; rfl

/-- The level in a tick of a line that is at 0 for `k` ticks and at 1 from then on. -/
def dipLevel (k : Nat) (m : Nat) : Bool := decide (k ≤ m)

theorem dipLevel_of_lt {k m : Nat} (h : m < k) : dipLevel k m = false := by simp [dipLevel, h]

theorem dipLevel_of_le {k m : Nat} (h : k ≤ m) : dipLevel k m = true := by simp [dipLevel, h]

section Dip

variable {s : State} (hrst : s.ports.rst = false) (k j : Nat)

include hrst

/-- A line that dips, as levels of their own in every tick. -/
theorem dip_rx : (holdLine j true (holdLine k false s)).rx = rxFed s.cfg.parity (dipLevel k) (k + j) s.rx := by
  induction j with
  | zero => rw [holdLine_zero, holdLine_rx k false hrst, rxHeld_eq_rxFed fun m hm => dipLevel_of_lt hm]; rfl
  | succ j ih =>
    rw [holdLine_last, lineTick_rx true (by rw [holdLine_rst, holdLine_rst, hrst]), ih, ← Nat.add_assoc, rxFed_succ,
      holdLine_cfg, holdLine_cfg, dipLevel_of_le (Nat.le_add_right k j)]

/-- The event of the last tick of a line that dips. -/
theorem dip_event {m : Nat} (hm : k + j = m + 1) : (holdLine j true (holdLine k false s)).out.event =
    rxEvent s.cfg.parity {} (dipLevel k m) (rxFed s.cfg.parity (dipLevel k) m s.rx) := by
  cases j with
  | zero =>
    obtain rfl : k = m + 1 := hm
    rw [holdLine_zero, holdLine_last, lineTick_event false (by rw [holdLine_rst, hrst]), holdLine_cfg,
      holdLine_rx m false hrst, dipLevel_of_lt (Nat.lt_succ_self m),
      rxHeld_eq_rxFed fun i hi => dipLevel_of_lt (Nat.lt_succ_of_lt hi)]
  | succ j =>
    obtain rfl : k + j = m := Nat.succ.inj hm
    rw [holdLine_last, lineTick_event true (by rw [holdLine_rst, holdLine_rst, hrst]), holdLine_cfg, holdLine_cfg,
      dip_rx hrst, dipLevel_of_le (Nat.le_add_right k j)]

end Dip

/-! ### What is left of a frame -/

/-- The time of some bits is that of all but one and of one more. -/
theorem mul_eq_sub_one_mul_add {n : Nat} (hn : 0 < n) (d : Nat) : n * d = (n - 1) * d + d := by
  rw [← Nat.succ_mul, Nat.succ_eq_add_one, Nat.sub_add_cancel hn]

section Frame

variable {par : Parity} {bits : List Bool} {r r' : RxDir}

/-- The ticks from the one that sees the start bit to the one that takes the last sample (41_uart_rx.md rule R99). -/
def ticksToLastSample (par : Parity) (d : Divisor) : Nat := d.toNat / 2 + (frameLength par - 1) * d.toNat

/-- The receiver `r` inside a frame of the levels `bits`, with `left` ticks to go before the last sample: the bits not
counted as outstanding have been sampled. -/
def RxInFrame (par : Parity) (bits : List Bool) (r : RxDir) (left : Nat) (r' : RxDir) : Prop :=
  ∃ ti bi, r' = { r with phase := .busy, timer := ti, bitno := bi,
                         shreg := rxSamples par (bits.take (frameLength par - 1 - bi.toNat)) r.shreg } ∧
    bi.toNat < frameLength par ∧ ti.toNat + bi.toNat * r.divisor.toNat = left

/-- The tick that sees the start bit (41_uart_rx.md rule R93). -/
theorem rxInFrame_start (hen : r.enable = true) (hidle : r.phase = .idle) :
    RxInFrame par bits r (ticksToLastSample par r.divisor) (rxStep par {} false r) := by
  have hpos := frameLength_pos par
  refine ⟨r.divisor >>> 1, lastBitNo par, ?_, ?_, ?_⟩
  · rw [rxStep_start hen hidle, lastBitNo_toNat, Nat.sub_self]; rfl
  · rw [lastBitNo_toNat]; omega
  · rw [lastBitNo_toNat, BitVec.toNat_ushiftRight, Nat.shiftRight_eq_div_pow]; rfl

/-- One more sample. -/
theorem rxShiftIn_rxSamples_take {n : Nat} (hn : n < bits.length) (x : BitVec 11) :
    rxShiftIn par (bits.getD n false) (rxSamples par (bits.take n) x) = rxSamples par (bits.take (n + 1)) x := by
  rw [← rxSamples_concat, List.getD_eq_getElem _ _ hn, List.take_append_getElem hn]

/-- A tick before the last sample leaves one tick less to go, provided the level is that of the bit to sample when whole
bits are left (41_uart_rx.md rules R94, R95). -/
theorem rxInFrame_step {left : Nat} {level : Bool} (hen : r.enable = true) (hlen : bits.length = frameLength par)
    (h : RxInFrame par bits r (left + 1) r')
    (hlevel : ∀ m < frameLength par, left + 1 = m * r.divisor.toNat →
      level = bits.getD (frameLength par - 1 - m) false) :
    RxInFrame par bits r left (rxStep par {} level r') := by
  obtain ⟨ti, bi, rfl, hbi, hleft⟩ := h
  by_cases hti : ti = 0
  · have hzero : ti.toNat = 0 := by rw [hti]; rfl
    have hbit : bi ≠ 0 := by rintro rfl; simp [hzero] at hleft
    have hpos := toNat_pos_of_ne_zero hbit
    have hd : r.divisor ≠ 0 := fun hd => by simp [hzero, hd] at hleft
    refine ⟨r.divisor - 1, bi - 1, ?_, ?_, ?_⟩
    · rw [rxStep_sample level (by exact hen) rfl (by exact hti) (by exact hbit), toNat_sub_one hbit,
        show frameLength par - 1 - (bi.toNat - 1) = frameLength par - 1 - bi.toNat + 1 by omega,
        ← rxShiftIn_rxSamples_take (by omega), hlevel bi.toNat hbi (by omega)]
    · rw [toNat_sub_one hbit]; omega
    · have hdpos := toNat_pos_of_ne_zero hd
      have hwhole := mul_eq_sub_one_mul_add hpos r.divisor.toNat
      rw [toNat_sub_one hbit, toNat_sub_one hd]; omega
  · have hpos := toNat_pos_of_ne_zero hti
    refine ⟨ti - 1, bi, by rw [rxStep_count level (by exact hen) rfl (by exact hti)], hbi, ?_⟩
    rw [toNat_sub_one hti]; omega

/-- Before the last sample no tick has an event. -/
theorem rxInFrame_no_event {left : Nat} (level : Bool) (h : RxInFrame par bits r (left + 1) r') :
    rxEvent par {} level r' = .none := by
  obtain ⟨ti, bi, rfl, -, hleft⟩ := h
  apply rxEvent_eq_none
  rintro ⟨-, hti, hbi⟩
  dsimp only at hti hbi
  simp [hti, hbi] at hleft

/-- The last sample: the levels of the frame are judged, and the receiver waits again (41_uart_rx.md rule R96). -/
theorem rxInFrame_last (hen : r.enable = true) (hd : r.divisor ≠ 0) (hlen : bits.length = frameLength par)
    (h : RxInFrame par bits r 0 r') :
    let x := rxSamples par bits r.shreg
    let level := bits.getD (frameLength par - 1) false
    rxEvent par {} level r' = judgeFrame par x ∧
    rxStep par {} level r' =
      { rxApplyEvent (judgeFrame par x) r with phase := .idle, timer := r.divisor - 1, bitno := 0, shreg := x } := by
  intro x level
  obtain ⟨ti, bi, rfl, -, hleft⟩ := h
  have hpos := frameLength_pos par
  have hti : ti = 0 := BitVec.eq_of_toNat_eq (by simp; omega)
  have hbi : bi = 0 := by
    by_contra hne
    have := Nat.mul_pos (toNat_pos_of_ne_zero hne) (toNat_pos_of_ne_zero hd)
    omega
  have hx : rxShiftIn par level (rxSamples par (bits.take (frameLength par - 1)) r.shreg) = x := by
    rw [rxShiftIn_rxSamples_take (by omega), List.take_of_length_le (by omega)]
  subst hti hbi
  refine ⟨?_, ?_⟩
  · rw [rxEvent_last level (by exact hen) rfl rfl rfl, ← hx]; rfl
  · rw [rxStep_last level (by exact hen) rfl rfl rfl, ← rxApplyEvent_lineLayer, ← hx]; rfl

/-! ### A whole frame -/

variable {lv : Nat → Bool} (hen : r.enable = true) (hidle : r.phase = .idle) (hlen : bits.length = frameLength par)
  (hstart : lv 0 = false)
  (hsample : ∀ k < frameLength par, lv (r.divisor.toNat / 2 + 1 + k * r.divisor.toNat) = bits.getD k false)

include hen hidle hlen hstart hsample

/-- The receiver counts a frame down from the tick that sees the start bit. -/
theorem rxFed_inFrame {m left : Nat} (hm : m + left = ticksToLastSample par r.divisor) :
    RxInFrame par bits r left (rxFed par lv (m + 1) r) := by
  induction m generalizing left with
  | zero =>
    rw [rxFed_succ, hstart, ← Nat.zero_add left, hm]; exact rxInFrame_start hen hidle
  | succ m ih =>
    refine rxInFrame_step hen hlen (ih (left := left + 1) (by omega)) fun j hj hleft => ?_
    have hsum : (frameLength par - 1) * r.divisor.toNat =
        (frameLength par - 1 - j) * r.divisor.toNat + j * r.divisor.toNat := by
      rw [← Nat.add_mul]; congr 1; omega
    rw [← hsample (frameLength par - 1 - j) (by omega)]
    congr 1
    rw [ticksToLastSample] at hm
    omega

/-- No tick before the last sample has an event. -/
theorem rxFed_no_event (level : Bool) {m : Nat} (hm : m ≤ ticksToLastSample par r.divisor) :
    rxEvent par {} level (rxFed par lv m r) = .none := by
  cases m with
  | zero => exact rxEvent_eq_none level (by simp [rxFed, hidle])
  | succ m =>
    obtain ⟨left, hleft⟩ := Nat.exists_eq_add_of_le hm
    have hframe : RxInFrame par bits r (left + 1) (rxFed par lv (m + 1) r) :=
      rxFed_inFrame hen hidle hlen hstart hsample (by omega)
    exact rxInFrame_no_event level hframe

/-- A whole frame from a waiting receiver: the event of its last sample and the receiver after it. -/
theorem rxFed_frame (hd : r.divisor ≠ 0) :
    let x := rxSamples par bits r.shreg
    let n := ticksToLastSample par r.divisor + 1
    rxEvent par {} (lv n) (rxFed par lv n r) = judgeFrame par x ∧
    rxFed par lv (n + 1) r =
      { rxApplyEvent (judgeFrame par x) r with phase := .idle, timer := r.divisor - 1, bitno := 0, shreg := x } := by
  intro x n
  have hpos := frameLength_pos par
  have hlast : lv n = bits.getD (frameLength par - 1) false := by
    rw [← hsample (frameLength par - 1) (by omega)]
    congr 1
    simp only [n, ticksToLastSample]
    omega
  have hframe : RxInFrame par bits r 0 (rxFed par lv n r) :=
    rxFed_inFrame hen hidle hlen hstart hsample (Nat.add_zero _)
  rw [rxFed_succ par lv n, hlast]
  exact rxInFrame_last hen hd hlen hframe

end Frame

/-! ### The statements about frames that are none (41_uart_rx.md rule R107) -/

/-- Levels that are all the same are no frame: there is no start bit or no stop bit. -/
theorem judgeFrame_replicate (par : Parity) (c : Bool) (x : BitVec 11) :
    judgeFrame par (rxSamples par (List.replicate (frameLength par) c) x) = .error := by
  have hlevel : ∀ i < frameLength par, (rxSamples par (List.replicate (frameLength par) c) x).getLsbD i = c := by
    intro i hi
    rw [rxSamples_frame (List.length_replicate ..) x hi, List.getD_replicate _ hi]
  have hpos := frameLength_pos par
  have hbad : frameGood par (rxSamples par (List.replicate (frameLength par) c) x) = false := by
    rw [frameGood, hlevel _ hpos, hlevel _ (by omega)]
    cases c <;> simp
  simp [judgeFrame, hbad]

/-- A line that dips, with the same level `c` in every tick that is sampled: the frame ends in an error, which stores
nothing. -/
theorem dip_is_error {s : State} {k j : Nat} (c : Bool) (hrst : s.ports.rst = false) (hen : s.rx.enable = true)
    (hidle : s.rx.phase = .idle) (hd : s.rx.divisor ≠ 0) (hk : 1 ≤ k)
    (hticks : k + j = s.rx.divisor.toNat / 2 + 2 + (frameLength s.cfg.parity - 1) * s.rx.divisor.toNat)
    (hsample : ∀ i < frameLength s.cfg.parity,
      dipLevel k (s.rx.divisor.toNat / 2 + 1 + i * s.rx.divisor.toNat) = c) :
    let t := holdLine j true (holdLine k false s)
    t.out.event = .error ∧
    ∃ ti bi x, t.rx = { s.rx with error := true, phase := .idle, timer := ti, bitno := bi, shreg := x } := by
  intro t
  have hlast : k + j = ticksToLastSample s.cfg.parity s.rx.divisor + 1 + 1 := by rw [hticks, ticksToLastSample]; omega
  obtain ⟨hevent, hrx⟩ := rxFed_frame (bits := List.replicate (frameLength s.cfg.parity) c) hen hidle
    (List.length_replicate ..) (dipLevel_of_lt hk) (fun i hi => by rw [hsample i hi, List.getD_replicate _ hi]) hd
  rw [judgeFrame_replicate] at hevent hrx
  have hfed := dip_rx hrst k j
  rw [hlast] at hfed
  exact ⟨(dip_event hrst k j hlast).trans hevent, _, _, _, hfed.trans hrx⟩

/-- Settles O28: every sample of a line held at 0 is 0, and the receiver that waits after the error sees a start bit. -/
theorem breakOnTheLineIsAnError : Obligations.BreakOnTheLineIsAnError := by
  intro s hrst hen hidle hd n
  have hlow : ∀ i < frameLength s.cfg.parity,
      dipLevel n (s.rx.divisor.toNat / 2 + 1 + i * s.rx.divisor.toNat) = false := fun i hi => by
    have hbefore : i * s.rx.divisor.toNat ≤ (frameLength s.cfg.parity - 1) * s.rx.divisor.toNat :=
      Nat.mul_le_mul_right _ (by omega)
    exact dipLevel_of_lt (by omega)
  obtain ⟨hevent, ti, bi, x, hrx⟩ :=
    dip_is_error (k := n) (j := 0) false hrst hen hidle hd (by omega) rfl hlow
  rw [holdLine_zero] at hevent hrx
  rw [holdLine_last, lineTick_rx false (by rw [holdLine_rst, hrst]), hrx, rxStep_start (by exact hen) rfl]
  exact ⟨hevent, rfl, rfl, rfl, rfl, rfl, rfl⟩

/-- Settles O29: a dip that is over at the start-bit sample leaves every sample 1. -/
theorem falseStartIsAnError : Obligations.FalseStartIsAnError := by
  intro k s hrst hen hidle hd hk hdip n t
  obtain ⟨hevent, ti, bi, x, hrx⟩ := dip_is_error (k := k) (j := n - k) true hrst hen hidle hd hk (by omega)
    fun i _ => dipLevel_of_le (by omega)
  rw [show t.rx = _ from hrx]
  exact ⟨hevent, rfl, rfl, rfl, rfl, rfl⟩

end Sys2Proof.Machine

/-! SUPPORT. What the transmitter has on the line in each tick of the frame of an accepted byte, and a receiver that
listens to it; and the proof of the statement of 41_uart_rx.md about a loopback. -/

namespace Sys2Proof.Machine

/-! ### The frame of an accepted byte in the shift register (42_uart_tx.md rules R112, R116) -/

theorem frameLevels_parity {par : Parity} (hpar : par ≠ .none) (b : Byte) :
    frameLevels par b = levels8P1 (.ofByte b) (parityBit par b) := by
  cases par with
  | none => exact absurd rfl hpar
  | _ => rfl

theorem loadShift_parity {par : Parity} (hpar : par ≠ .none) (b : Byte) :
    loadShift par b = (1 : BitVec 1) ++ BitVec.ofBool (parityBit par b) ++ b := by
  cases par with
  | none => exact absurd rfl hpar
  | _ => rfl

theorem frameLevels_length (par : Parity) (b : Byte) : (frameLevels par b).length = frameLength par := by
  by_cases hpar : par = .none
  · subst hpar; exact levels8N1_length _
  · rw [frameLevels_parity hpar, levels8P1_length, frameLength_of_parity hpar]

/-- After `k` shifts the register has moved down by `k` places. -/
theorem txShiftOut_iterate_getLsbD {par : Parity} {k i : Nat} (h : k + i < frameLength par - 1) (x : BitVec 10) :
    ((txShiftOut par)^[k] x).getLsbD i = x.getLsbD (k + i) := by
  induction k generalizing i with
  | zero => rw [Nat.zero_add]; rfl
  | succ k ih =>
    have hinside : (i == frameLength par - 2) = false := by simp; omega
    rw [Function.iterate_succ_apply', txShiftOut_getLsbD _ (by omega), hinside, Bool.false_or, ih (by omega)]
    congr 1
    omega

/-- The shift register is loaded with the levels that follow the start bit. -/
theorem loadShift_getLsbD {par : Parity} {k : Nat} (hk : k + 1 < frameLength par) (b : Byte) :
    (loadShift par b).getLsbD k = (frameLevels par b).getD (k + 1) false := by
  by_cases hpar : par = .none
  · subst hpar
    have hk : k < 9 := Nat.lt_of_succ_lt_succ hk
    rw [frameLevels, levels8N1, frame_getD, if_neg (by omega), loadShift, BitVec.getLsbD_setWidth,
      BitVec.getLsbD_append]
    by_cases hdata : k < 8
    · simp [hdata, FramedByte.ofByte, show k < 10 by omega]
    · obtain rfl : k = 8 := by omega
      rfl
  · have hk : k < 10 := by rw [frameLength_of_parity hpar] at hk; omega
    rw [frameLevels_parity hpar, levels8P1, frame_getD, if_neg (by omega), loadShift_parity hpar, BitVec.getLsbD_append]
    by_cases hdata : k < 8
    · simp [hdata, FramedByte.ofByte]
    · obtain rfl | rfl : k = 8 ∨ k = 9 := by omega
      · cases parityBit par b <;> rfl
      · cases parityBit par b <;> rfl

/-- The next bit to go on the line, after `k` of those that follow the start bit. -/
theorem txShiftOut_iterate_next {par : Parity} {k : Nat} (hk : k + 1 < frameLength par) (b : Byte) :
    ((txShiftOut par)^[k] (loadShift par b)).getLsbD 0 = (frameLevels par b).getD (k + 1) false := by
  rw [txShiftOut_iterate_getLsbD (by omega), Nat.add_zero, loadShift_getLsbD hk]

section Tx

variable {par : Parity} {b : Byte} {t t' : TxDir}

/-! ### One tick of a running transmitter (42_uart_tx.md rules R112, R115, R116) -/

theorem txStep_accept (hen : t.enable = true) (hidle : t.phase = .idle) :
    txStep par { byte := some b } t = txAccept par b t := by
  simp [txStep, txRuns, txEngine, hen, hidle]

theorem txStep_count (hen : t.enable = true) (hbusy : t.phase = .busy) (htimer : t.timer ≠ 0) :
    txStep par {} t = { t with timer := t.timer - 1 } := by
  rw [txStep_idle_run par t hen]
  simp only [txEngine, hbusy, htimer, ne_eq, not_false_eq_true, if_true]

theorem txStep_next (hen : t.enable = true) (hbusy : t.phase = .busy) (htimer : t.timer = 0) (hbit : t.bitno ≠ 0) :
    txStep par {} t = { t with line := t.shreg.getLsbD 0, shreg := txShiftOut par t.shreg, bitno := t.bitno - 1,
                               timer := t.divisor - 1 } := by
  rw [txStep_idle_run par t hen]
  simp only [txEngine, hbusy, htimer, hbit, ne_eq, not_true_eq_false, not_false_eq_true, if_true, if_false]

/-! ### What is left of a frame on the line -/

/-- The transmitter `t` inside the frame of `b`, with `left` ticks to go before the one that ends it: the line has the
level of the bit that is being sent, and the register what follows it. -/
def TxInFrame (par : Parity) (b : Byte) (t : TxDir) (left : Nat) (t' : TxDir) : Prop :=
  ∃ ti bi, t' = { t with phase := .busy, timer := ti, bitno := bi,
                         line := (frameLevels par b).getD (frameLength par - 1 - bi.toNat) false,
                         shreg := (txShiftOut par)^[frameLength par - 1 - bi.toNat] (loadShift par b) } ∧
    bi.toNat < frameLength par ∧ ti.toNat < t.divisor.toNat ∧ ti.toNat + bi.toNat * t.divisor.toNat = left

/-- An accepted byte has all its ticks but one before it. -/
theorem txInFrame_accept (hd : t.divisor ≠ 0) :
    TxInFrame par b t (frameLength par * t.divisor.toNat - 1) (txAccept par b t) := by
  have hpos := frameLength_pos par
  have hdpos := toNat_pos_of_ne_zero hd
  have hstart : (frameLevels par b).getD 0 false = false := by cases par <;> rfl
  have hticks := mul_eq_sub_one_mul_add hpos t.divisor.toNat
  refine ⟨t.divisor - 1, lastBitNo par, ?_, ?_, ?_, ?_⟩
  · rw [lastBitNo_toNat, Nat.sub_self, hstart]; rfl
  · rw [lastBitNo_toNat]; omega
  · rw [toNat_sub_one hd]; omega
  · rw [lastBitNo_toNat, toNat_sub_one hd]; omega

/-- A tick inside the frame leaves one tick less to go (42_uart_tx.md rules R115, R116). -/
theorem txInFrame_step {left : Nat} (hen : t.enable = true) (h : TxInFrame par b t (left + 1) t') :
    TxInFrame par b t left (txStep par {} t') := by
  obtain ⟨ti, bi, rfl, hbi, hti, hleft⟩ := h
  by_cases hzero : ti = 0
  · have hbit : bi ≠ 0 := by rintro rfl; simp [hzero] at hleft
    have hpos := toNat_pos_of_ne_zero hbit
    have hd : t.divisor ≠ 0 := fun hd => by simp [hd] at hti
    have hnext : frameLength par - 1 - (bi.toNat - 1) = frameLength par - 1 - bi.toNat + 1 := by omega
    have hwhole := mul_eq_sub_one_mul_add hpos t.divisor.toNat
    refine ⟨t.divisor - 1, bi - 1, ?_, ?_, ?_, ?_⟩
    · rw [txStep_next (by exact hen) rfl (by exact hzero) (by exact hbit), toNat_sub_one hbit, hnext,
        Function.iterate_succ_apply', ← txShiftOut_iterate_next (by omega)]
    · rw [toNat_sub_one hbit]; omega
    · rw [toNat_sub_one hd]; omega
    · have hti0 : ti.toNat = 0 := by rw [hzero]; rfl
      rw [toNat_sub_one hbit, toNat_sub_one hd]; omega
  · have hpos := toNat_pos_of_ne_zero hzero
    refine ⟨ti - 1, bi, by rw [txStep_count (by exact hen) rfl (by exact hzero)], hbi, ?_, ?_⟩
    · rw [toNat_sub_one hzero]; omega
    · rw [toNat_sub_one hzero]; omega

/-- The level on the line while the bit numbered `k` is sent, `i` ticks before its end. -/
theorem txInFrame_line {k i : Nat} (hk : k < frameLength par) (hi : i < t.divisor.toNat)
    (h : TxInFrame par b t (i + (frameLength par - 1 - k) * t.divisor.toNat) t') :
    t'.line = (frameLevels par b).getD k false := by
  obtain ⟨ti, bi, rfl, hbi, hti, hleft⟩ := h
  have hbit : bi.toNat = frameLength par - 1 - k := by
    have hdiv := congrArg (· / t.divisor.toNat) hleft
    simpa [Nat.add_mul_div_right _ _ (Nat.zero_lt_of_lt hi), Nat.div_eq_of_lt hi, Nat.div_eq_of_lt hti] using hdiv
  simp only [hbit]
  congr 1
  omega

theorem idleTick_tx {s : State} (hrst : s.ports.rst = false) : (idleTick s).tx = txStep s.cfg.parity {} s.tx := by
  rw [idleTick, tick_run _ _ hrst]; rfl

/-- The transmitter counts a frame down from the acceptance of its byte. -/
theorem idleTicks_txInFrame {s : State} (hrst : s.ports.rst = false) (hen : t.enable = true) (hd : t.divisor ≠ 0)
    (haccept : s.tx = txAccept s.cfg.parity b t) {m left : Nat}
    (hm : m + left + 1 = frameLength s.cfg.parity * t.divisor.toNat) :
    TxInFrame s.cfg.parity b t left (idleTicks m s).tx := by
  induction m generalizing left with
  | zero =>
    rw [idleTicks_zero, haccept, show left = frameLength s.cfg.parity * t.divisor.toNat - 1 by omega]
    exact txInFrame_accept hd
  | succ m ih =>
    rw [idleTicks_last, idleTick_tx (by rw [idleTicks_rst, hrst]), idleTicks_cfg]
    exact txInFrame_step hen (ih (by omega))

/-- Every bit of an accepted byte's frame is on the line for `divisor` ticks (42_uart_tx.md rules R113, R114). -/
theorem idleTicks_line {s : State} (hrst : s.ports.rst = false) (hen : t.enable = true) (hd : t.divisor ≠ 0)
    (haccept : s.tx = txAccept s.cfg.parity b t) {k j : Nat} (hk : k < frameLength s.cfg.parity)
    (hj : j < t.divisor.toNat) :
    (idleTicks (k * t.divisor.toNat + j) s).tx.line = (frameLevels s.cfg.parity b).getD k false := by
  have hticks : frameLength s.cfg.parity * t.divisor.toNat =
      k * t.divisor.toNat + (t.divisor.toNat + (frameLength s.cfg.parity - 1 - k) * t.divisor.toNat) := by
    obtain ⟨i, hi⟩ := Nat.exists_eq_add_of_le hk
    rw [show frameLength s.cfg.parity - 1 - k = i by omega, hi, Nat.add_mul, Nat.succ_mul, Nat.add_assoc]
  exact txInFrame_line (i := t.divisor.toNat - 1 - j) hk (by omega)
    (idleTicks_txInFrame hrst hen hd haccept (by omega))

end Tx

/-! ### A receiver that listens to the transmitter (41_uart_rx.md rule R108) -/

/-- The frame the transmitter sends for a byte is judged to be the byte. -/
theorem judgeFrame_frameLevels (par : Parity) (b : Byte) (x : BitVec 11) :
    judgeFrame par (rxSamples par (frameLevels par b) x) = .arrival b := by
  by_cases hpar : par = .none
  · subst hpar; exact judgeFrame_8N1 (.ofByte b) x
  · rw [frameLevels_parity hpar, judgeFrame_8P1 hpar]; simp [FramedByte.ofByte]

section Loopback

variable {s : State} (hloop : s.ports.loopback = true)

include hloop

theorem idleTicks_lineLevel_of_loopback (n : Nat) :
    lineLevel (idleTicks n s).ports (idleTicks n s).tx = (idleTicks n s).tx.line := by
  have hkept : (idleTicks n s).ports.loopback = true :=
    idleTicks_keeps (I := fun u => u.ports.loopback = true) (fun u hu => (tick_ports_loopback _ _ u).trans hu) n s hloop
  rw [lineLevel, if_pos hkept]

variable (hrst : s.ports.rst = false)

include hrst

/-- In a loopback the receiver is fed the transmitter's line. -/
theorem idleTicks_rx_of_loopback (n : Nat) :
    (idleTicks n s).rx = rxFed s.cfg.parity (fun m => (idleTicks m s).tx.line) n s.rx := by
  induction n with
  | zero => rfl
  | succ n ih =>
    rw [idleTicks_last, idleTick_rx (by rw [idleTicks_rst, hrst]), idleTicks_cfg,
      idleTicks_lineLevel_of_loopback hloop, ih, rxFed_succ]

theorem idleTicks_event_of_loopback (n : Nat) : (idleTicks (n + 1) s).out.event =
    rxEvent s.cfg.parity {} (idleTicks n s).tx.line (rxFed s.cfg.parity (fun m => (idleTicks m s).tx.line) n s.rx) := by
  rw [idleTicks_last, idleTick_event (by rw [idleTicks_rst, hrst]), idleTicks_cfg,
    idleTicks_lineLevel_of_loopback hloop, idleTicks_rx_of_loopback hloop hrst]

/-- A byte accepted in a loopback with a divisor of at least 3 arrives: every sample is taken while its bit is on the
line. -/
theorem idleTicks_loopback_frame {b : Byte} {t : TxDir} (hrx : s.rx.enable = true) (hidle : s.rx.phase = .idle)
    (htx : t.enable = true) (haccept : s.tx = txAccept s.cfg.parity b t) (hdiv : s.rx.divisor = t.divisor)
    (hthree : 3 ≤ t.divisor.toNat) :
    let n := ticksToLastSample s.cfg.parity t.divisor + 1
    (∀ m < n, (idleTicks (m + 1) s).out.event = .none) ∧ (idleTicks (n + 1) s).out.event = .arrival b ∧
    ∃ x, (idleTicks (n + 1) s).rx =
      { rxApplyEvent (.arrival b) s.rx with phase := .idle, timer := t.divisor - 1, bitno := 0, shreg := x } := by
  have hd : t.divisor ≠ 0 := fun hd => by simp [hd] at hthree
  have hstart : (idleTicks 0 s).tx.line = false := by rw [idleTicks_zero, haccept]; rfl
  have hsample : ∀ k < frameLength s.cfg.parity,
      (idleTicks (s.rx.divisor.toNat / 2 + 1 + k * s.rx.divisor.toNat) s).tx.line =
        (frameLevels s.cfg.parity b).getD k false := fun k hk => by
    rw [hdiv, Nat.add_comm]; exact idleTicks_line hrst htx hd haccept hk (by omega)
  have hlen := frameLevels_length s.cfg.parity b
  obtain ⟨hevent, hafter⟩ := rxFed_frame (lv := fun m => (idleTicks m s).tx.line) hrx hidle hlen hstart hsample
    (by rwa [hdiv])
  rw [judgeFrame_frameLevels, hdiv] at hevent hafter
  refine ⟨fun m hm => ?_, (idleTicks_event_of_loopback hloop hrst _).trans hevent, _,
    (idleTicks_rx_of_loopback hloop hrst _).trans hafter⟩
  rw [idleTicks_event_of_loopback hloop hrst]
  exact rxFed_no_event (lv := fun m => (idleTicks m s).tx.line) hrx hidle hlen hstart hsample _
    (by rw [hdiv]; exact Nat.le_of_lt_succ hm)

end Loopback

/-- Settles O36: the line is at rest when the byte is written, so the receiver waits on; the frame is
`idleTicks_loopback_frame`. -/
theorem loopbackDeliversTheByteSent : Obligations.LoopbackDeliversTheByteSent := by
  intro w s hgood hrst hloop htxen htxidle hrxen hrxidle hdiv hthree
  let t := runTick { tx := { byte := some (byteOperand w) } } s.ports s
  refine ⟨t, congrArg Host.Outcome.next (tick_run _ s hrst), ?_⟩
  intro n
  obtain ⟨-, ⟨-, -, hrests, -⟩, -⟩ := hgood
  obtain ⟨hline, -⟩ := hrests htxidle
  have hhigh : lineLevel s.ports s.tx = true := by rw [lineLevel, if_pos hloop, hline]
  have hrx : t.rx = s.rx := by rw [runTick_rx, hhigh]; exact rxStep_rest hrxen hrxidle
  have haccept : t.tx = txAccept t.cfg.parity (byteOperand w) s.tx := txStep_accept htxen htxidle
  have hquiet : t.out.event = .none := rxEvent_eq_none _ (by simp [hrxidle])
  have hn : n = ticksToLastSample t.cfg.parity s.tx.divisor + 1 := by
    simp only [n, ticksToLastSample, t, runTick_cfg]; omega
  obtain ⟨hnone, hevent, x, hafter⟩ := idleTicks_loopback_frame (s := t) hloop hrst (by rw [hrx, hrxen])
    (by rw [hrx, hrxidle]) htxen haccept (by rw [hrx, hdiv]) hthree
  rw [← hn] at hnone hevent hafter
  rw [hafter, hrx, rxApplyEvent_arrival]
  refine ⟨fun m hm => ?_, hevent, rfl, rfl, rfl, rfl⟩
  cases m with
  | zero => exact hquiet
  | succ m => exact hnone m hm

end Sys2Proof.Machine

/-! SUPPORT. How a frame of the transmitter begins, how it ends and what is on the line in between; and the proofs of the
statements of 42_uart_tx.md. -/

namespace Sys2Proof.Machine

section Tx

variable {par : Parity} {b : Byte} {t t' : TxDir}

/-! ### The end of a frame (42_uart_tx.md rules R113, R117) -/

theorem txStep_end (hen : t.enable = true) (hbusy : t.phase = .busy) (htimer : t.timer = 0) (hbit : t.bitno = 0) :
    txStep par {} t = { t with phase := .idle } := by
  rw [txStep_idle_run par t hen]
  simp only [txEngine, hbusy, htimer, hbit, ne_eq, not_true_eq_false, if_false]

/-- The last level of a frame is the stop bit. -/
theorem frameLevels_stop (par : Parity) (b : Byte) : (frameLevels par b).getD (frameLength par - 1) false = true := by
  cases par <;> rfl

/-- Inside a frame the transmitter is not ready (42_uart_tx.md rule R111). -/
theorem txInFrame_not_ready {left : Nat} (h : TxInFrame par b t left t') : txReady t' = false := by
  obtain ⟨ti, bi, rfl, -⟩ := h
  exact Bool.and_false _

/-- With no tick of the frame left the stop bit is on the line, and the next tick ends the frame. -/
theorem txInFrame_end (hen : t.enable = true) (h : TxInFrame par b t 0 t') :
    txReady (txStep par {} t') = true ∧ (txStep par {} t').line = true := by
  obtain ⟨ti, bi, rfl, -, hti, hleft⟩ := h
  obtain ⟨htimer, hbits⟩ := Nat.add_eq_zero_iff.1 hleft
  have hbit : bi.toNat = 0 := (Nat.mul_eq_zero.1 hbits).resolve_right (Nat.ne_zero_of_lt hti)
  rw [txStep_end (by exact hen) rfl (BitVec.eq_of_toNat_eq htimer) (BitVec.eq_of_toNat_eq hbit)]
  refine ⟨by simp [txReady, hen], ?_⟩
  simp only [hbit]
  exact frameLevels_stop par b

/-! ### The beginning of a frame (42_uart_tx.md rules R112, R123) -/

/-- A tick starts a frame only by accepting a byte, in an enabled transmitter. -/
theorem txStep_starts (c : TxCtl) (hidle : t.phase = .idle) (hbusy : (txStep par c t).phase = .busy) :
    (∃ b, c.byte = some b) ∧ t.enable = true := by
  cases hrun : txRuns c t with
  | false =>
    obtain ⟨-, -, -, hphase, -⟩ := txApplyOp_fields c (txHold t)
    rw [txStep_held par c t hrun, hphase] at hbusy
    cases hbusy
  | true =>
    obtain ⟨hen, -⟩ := (txRuns_iff c t).1 hrun
    obtain ⟨-, -, -, hphase, -⟩ := txApplyOp_fields c (txEngine par c.byte t)
    rw [txStep, if_pos hrun, hphase] at hbusy
    cases hbyte : c.byte with
    | some b => exact ⟨⟨b, rfl⟩, hen⟩
    | none => simp [hbyte, txEngine, hidle] at hbusy

end Tx

/-- Only a TxData write offers the transmitter a byte. -/
theorem eq_wrTxData_of_byte {i : Instr} {s : State} {b : Byte} (h : (busOpOf i s).tx.byte = some b) :
    ∃ w, i = .wrTxData w := by
  cases i with
  | wrTxData w => exact ⟨w, rfl⟩
  | _ => cases h

/-- A level on the line reaches no transmitter. -/
theorem lineTick_tx {s : State} (level : Bool) (hrst : s.ports.rst = false) :
    (lineTick level s).tx = txStep s.cfg.parity {} s.tx := by
  rw [lineTick, tick_run _ _ (by exact hrst)]; rfl

/-- Levels driven on the line start no frame of the transmitter. -/
theorem driveLine_tx_idle (d : Nat) (levels : List Bool) {s : State} (hrst : s.ports.rst = false)
    (hidle : s.tx.phase = .idle) : (driveLine d levels s).tx.phase = .idle := by
  refine (driveLine_keeps (I := fun u => u.ports.rst = false ∧ u.tx.phase = .idle) (fun level u ⟨hu, hrest⟩ => ?_)
    d levels s ⟨hrst, hidle⟩).2
  refine ⟨(lineTick_rst u level).trans hu, ?_⟩
  rw [lineTick_tx level hu]
  cases hafter : (txStep u.cfg.parity {} u.tx).phase with
  | idle => rfl
  | busy =>
    obtain ⟨⟨b, hbyte⟩, -⟩ := txStep_starts {} hrest hafter
    cases hbyte

/-- A TxData write to an enabled transmitter that is waiting is accepted (42_uart_tx.md rule R112). -/
theorem exec_wrTxData_accepts (w : BusWord) {s : State} (hrst : s.ports.rst = false) (hen : s.tx.enable = true)
    (hidle : s.tx.phase = .idle) : ∃ t, exec (.wrTxData w) s = .next t ∧ t.cfg = s.cfg ∧ t.ports.rst = false ∧
      t.tx = txAccept s.cfg.parity (byteOperand w) s.tx :=
  ⟨runTick { tx := { byte := some (byteOperand w) } } s.ports s, congrArg Host.Outcome.next (tick_run _ s hrst), rfl,
    hrst, txStep_accept hen hidle⟩

/-! ### The statements about the transmitter -/

/-- Settles O32: the three cases are `txStep_count`, `txStep_next` and `txStep_end`, the bits of the shift
`txShiftOut_getLsbD`. -/
theorem txCountsShiftsAndEnds : Obligations.TxCountsShiftsAndEnds := by
  intro s hrst hen hbusy
  have hlen : 2 < frameLength s.cfg.parity := by cases s.cfg.parity <;> decide
  rw [idleTick_tx hrst]
  refine ⟨txStep_count hen hbusy, fun htimer hbit => ?_, txStep_end hen hbusy⟩
  rw [txStep_next hen hbusy htimer hbit]
  refine ⟨rfl, rfl, rfl, hbusy, fun k hk => ?_, ?_⟩
  · have hinside : (k == frameLength s.cfg.parity - 2) = false := by simp; omega
    rw [txShiftOut_getLsbD _ (by omega), hinside, Bool.false_or]
  · rw [txShiftOut_getLsbD _ (by omega), beq_self_eq_true, Bool.true_or]

/-- Settles O33: the write is accepted, and `idleTicks_line` gives each bit. -/
theorem acceptedByteIsOnTheLineBitByBit : Obligations.AcceptedByteIsOnTheLineBitByBit := by
  intro w s hrst hen hidle hd
  obtain ⟨t, hexec, hcfg, hrst', haccept⟩ := exec_wrTxData_accepts w hrst hen hidle
  refine ⟨t, hexec, fun k hk j hj => ?_⟩
  rw [← hcfg] at haccept hk ⊢
  have hinside : k < (frameLevels t.cfg.parity (byteOperand w)).length := by rwa [frameLevels_length]
  rw [idleTicks_line hrst' hen hd haccept hk hj, List.getD_eq_getElem _ _ hinside]
  exact (List.getElem?_eq_getElem hinside).symm

/-- Settles O34: in each of the `N * D` ticks the transmitter is inside the frame (`idleTicks_txInFrame`), and the last
of them ends it (`txInFrame_end`). -/
theorem txReadyReturnsAfterTheWholeFrame : Obligations.TxReadyReturnsAfterTheWholeFrame := by
  intro w s hrst hen hidle hd
  obtain ⟨t, hexec, hcfg, hrst', haccept⟩ := exec_wrTxData_accepts w hrst hen hidle
  rw [← hcfg] at haccept ⊢
  refine ⟨t, hexec, fun n hn => ?_, ?_⟩
  · obtain ⟨left, hleft⟩ := Nat.exists_eq_add_of_lt hn
    exact txInFrame_not_ready (idleTicks_txInFrame hrst' hen hd haccept hleft.symm)
  · have hpos := Nat.mul_pos (frameLength_pos t.cfg.parity) (toNat_pos_of_ne_zero hd)
    obtain ⟨m, hm⟩ := Nat.exists_eq_succ_of_ne_zero hpos.ne'
    have hlast := idleTicks_txInFrame (left := 0) hrst' hen hd haccept hm.symm
    rw [hm, idleTicks_last, idleTick_tx (by rw [idleTicks_rst, hrst']), idleTicks_cfg]
    exact txInFrame_end hen hlast

/-- Settles O35: an operation of one tick starts a frame only by a byte it offers (`txStep_starts`), and a line frame
starts none. -/
theorem nothingIsSentThatWasNotAccepted : Obligations.NothingIsSentThatWasNotAccepted := by
  intro i s t hrst hexec hidle hbusy
  cases hl : isLineFrame i with
  | true =>
    obtain ⟨levels, rfl⟩ := exec_line_frame hl hexec
    rw [driveLine_tx_idle _ _ hrst hidle] at hbusy
    cases hbusy
  | false =>
    rw [exec_tx hl hexec, hrst] at hbusy
    obtain ⟨⟨b, hbyte⟩, hen⟩ := txStep_starts _ hidle hbusy
    obtain ⟨w, hi⟩ := eq_wrTxData_of_byte hbyte
    exact ⟨w, hi, hen⟩

end Sys2Proof.Machine

/-! SUPPORT. What a register operation makes of its direction, said against the tick without it; what sets and clears a
sticky flag; and the proofs of the statements of 43_uart_registers.md. -/

namespace Sys2Proof.Machine

/-! ### Selectors (30_encoding.md rules R61, R70) -/

/-- In this hardware's layout the selector of a direction and a register stands for their operation. -/
theorem selects_csrSelector (we : Bool) (r : Reg) : Selects (csrSelector we (Config.layout.offset r)) (csrInstr we r) :=
  fun w => decode_encodeCsr (P := Config.thisHardware) layout_wf we r w

/-- A selector of eleven bits whose offset no register has is refused for that. -/
theorem decodeCsr_of_no_register {L : Layout} {bits : BitVec 16} (hfits : bits.toNat < 2 ^ 11)
    (hnone : ∀ r, L.offset r ≠ bits.extractLsb' 0 10) (w : BusWord) :
    decodeCsr L bits w = .error .csrOffsetUndefined := by
  have habove := (extractLsb'_above_eq_zero_iff (n := 5) rfl bits).2 hfits
  rw [decodeCsr, if_neg (not_not.2 habove), Layout.regAt_eq_none hnone]

/-- Settles O4: such a selector decodes to no operation, and the step gives the decoder's reason. -/
theorem undefinedRegisterOffsetIsRefused : Obligations.UndefinedRegisterOffsetIsRefused := by
  intro s slot rest hsched hformat hfits hnone
  apply step_of_decode_error
  rw [nextSlot_of_cons hsched, decode, hformat]
  exact decodeCsr_of_no_register hfits hnone _

/-! ### Words and their fields (30_encoding.md rule R69) -/

theorem bitWord_eq (b : Bool) : bitWord b = BitVec.ofNat 32 b.toNat := by cases b <;> rfl

theorem phyWord_eq (res : Byte) (d : Divisor) : phyWord res d = BitVec.ofNat 32 (res.toNat * 2 ^ 24 + d.toNat) := by
  apply BitVec.eq_of_toNat_eq
  have hres := res.isLt
  have hd := d.isLt
  rw [phyWord, BitVec.toNat_append, ← Nat.shiftLeft_add_eq_or_of_lt hd, Nat.shiftLeft_eq, BitVec.toNat_ofNat,
    Nat.mod_eq_of_lt (by omega)]

theorem rxStatusWord_eq (error overflow ready : Bool) :
    rxStatusWord error overflow ready = BitVec.ofNat 32 (4 * error.toNat + 2 * overflow.toNat + ready.toNat) := by
  cases error <;> cases overflow <;> cases ready <;> rfl

theorem byteWord_eq (b : Byte) : byteWord b = BitVec.ofNat 32 b.toNat := (BitVec.ofNat_toNat ..).symm

/-- `tx_ready` as the TxStatus read returns it (42_uart_tx.md rule R111). -/
theorem bitWord_txReady (t : TxDir) :
    bitWord (txReady t) = if t.enable = true ∧ t.phase = .idle then 1 else 0 := by
  cases hen : t.enable <;> cases hph : t.phase <;> simp [txReady, hen, hph] <;> rfl

theorem reservedOperand_eq (w : BusWord) : reservedOperand w = BitVec.ofNat 8 (w.toNat / 2 ^ 24) := by
  apply BitVec.eq_of_toNat_eq
  rw [reservedOperand, BitVec.extractLsb'_toNat, Nat.shiftRight_eq_div_pow, BitVec.toNat_ofNat]

theorem divisorOperand_eq (w : BusWord) : divisorOperand w = BitVec.ofNat 24 w.toNat := by
  apply BitVec.eq_of_toNat_eq
  rw [divisorOperand, BitVec.extractLsb'_toNat, Nat.shiftRight_zero, BitVec.toNat_ofNat]

/-! ### The tick of a register operation (43_uart_registers.md rule R125) -/

section Present

variable {s : State}

theorem idleTick_run (hrst : s.ports.rst = false) : idleTick s = runTick noOp s.ports s := tick_run _ _ hrst

theorem present_run (op : BusOp) (hrst : s.ports.rst = false) : present op s = .next (runTick op s.ports s) := by
  rw [present_eq, tick_run _ _ hrst]

/-- A register operation without strobes leaves nothing but the value it returns. -/
theorem present_value (v : BusWord) (hrst : s.ports.rst = false) : present { rdata := some v } s =
    .next { idleTick s with out := { (idleTick s).out with rdata := some v } } := by
  rw [present_run _ hrst, idleTick_run hrst]; rfl

/-- A register operation on the RX block reaches the RX direction and the outputs only. -/
theorem present_rx (c : RxCtl) (v : Option BusWord) (hrst : s.ports.rst = false) :
    ∃ t, present { rx := c, rdata := v } s = .next t ∧ RestAsIdleButRx s t ∧ t.out.rdata = v ∧
      t.rx = rxStep s.cfg.parity c (lineLevel s.ports s.tx) s.rx ∧
      t.out.event = rxEvent s.cfg.parity c (lineLevel s.ports s.tx) s.rx :=
  ⟨_, present_run _ hrst, by rw [RestAsIdleButRx, idleTick_run hrst]; rfl, rfl, rfl, rfl⟩

/-- A register operation on the TX block reaches the TX direction and the outputs only. -/
theorem present_tx (c : TxCtl) (hrst : s.ports.rst = false) :
    ∃ t, present { tx := c } s = .next t ∧ RestAsIdleButTx s t ∧ t.tx = txStep s.cfg.parity c s.tx :=
  ⟨_, present_run _ hrst, by rw [RestAsIdleButTx, idleTick_run hrst]; rfl, rfl⟩

end Present

/-! ### Events and the sticky-flag law (43_uart_registers.md rule R131) -/

@[simp] theorem stickyNext_of_clear (clear set : Bool) : stickyNext false clear set = set := Bool.or_false _

/-- A flag that already shows the event of the tick is set by it no further. -/
theorem stickyNext_or_set (flag clear set : Bool) : stickyNext (flag || set) clear set = stickyNext flag clear set := by
  cases flag <;> cases clear <;> cases set <;> rfl

/-- Only a written 1 clears a flag. -/
theorem clear_of_stickyNext {clear set : Bool} (h : stickyNext true clear set = false) : clear = true := by
  cases clear
  · simp [stickyNext] at h
  · rfl

/-- A flag that already shows the event of the tick falls by a written 1 and no event (60_exceptions.md rule R176). -/
theorem stickyNext_of_shown {flag set : Bool} (clear : Bool) (h : set = true → flag = true) :
    stickyNext flag clear set = if clear = true ∧ ¬ set = true then false else flag := by
  cases set
  · cases clear <;> simp [stickyNext]
  · simp [stickyNext, h]

theorem isArrival_iff (ev : RxEvent) : ev.isArrival = true ↔ ∃ b, ev = .arrival b := by
  cases ev <;> simp [RxEvent.isArrival]

theorem isError_iff (ev : RxEvent) : ev.isError = true ↔ ev = .error := by
  cases ev <;> simp [RxEvent.isError]

/-- An event raises the flag of its kind and no other. -/
theorem rxApplyEvent_sticky (ev : RxEvent) (r : RxDir) :
    (rxApplyEvent ev r).overflow = (r.overflow || (ev.isArrival && r.ready)) ∧
    (rxApplyEvent ev r).error = (r.error || ev.isError) := by
  rcases rxApplyEvent_cases ev r with ⟨rfl, hr⟩ | ⟨b, rfl, hready, hr⟩ | ⟨b, rfl, hready, hr⟩ | ⟨rfl, hr⟩ <;>
    rw [hr] <;> simp [RxEvent.isArrival, RxEvent.isError, *]

/-- Without a byte that arrives into an empty buffer the buffer stays. -/
theorem rxApplyEvent_stores_nothing {ev : RxEvent} {r : RxDir} (h : ∀ b, ev = .arrival b → r.ready = true) :
    (rxApplyEvent ev r).buf = r.buf ∧ (ev.isArrival && !r.ready) = false := by
  cases ev with
  | none | error => exact ⟨rfl, rfl⟩
  | arrival b =>
    have hfull := h b rfl
    simp [rxApplyEvent, raiseOverflow, hfull]

section RxTick

variable {par : Parity} {r : RxDir}

/-- The sticky flags after any tick follow the law of rule R131; the buffer is the event's. -/
theorem rxStep_sticky (c : RxCtl) (level : Bool) :
    let ev := rxEvent par c level r
    (rxStep par c level r).overflow = stickyNext r.overflow c.clrOverflow (ev.isArrival && r.ready) ∧
    (rxStep par c level r).error = stickyNext r.error c.clrError ev.isError ∧
    (rxStep par c level r).buf = (rxApplyEvent ev r).buf := by
  intro ev
  cases hrun : rxRuns c r with
  | false =>
    obtain ⟨hnone, hheld⟩ := rxStep_held par c level r hrun
    obtain ⟨-, -, -, -, hoverflow, herror, hbuf, -⟩ := rxApplyOp_fields c .none r.ready (rxHold r)
    rw [hheld, show ev = .none from hnone]
    exact ⟨hoverflow, herror, hbuf⟩
  | true =>
    obtain ⟨-, -, -, -, hoverflow, herror, hbuf, -⟩ :=
      rxApplyOp_fields c ev r.ready (rxApplyEvent ev (rxEngine par level r))
    obtain ⟨hraise, hraise'⟩ := rxApplyEvent_sticky ev r
    rw [rxStep_run level hrun, hoverflow, herror, hbuf, rxEngine_frame, rxApplyEvent_lineLayer]
    simp only [hraise, hraise', stickyNext_or_set, and_self]

/-! ### The RX direction against the tick without the operation -/

theorem rxStep_idle_held (level : Bool) (hoff : r.enable = false) : rxStep par {} level r = rxHold r := by
  obtain ⟨-, hheld⟩ := rxStep_held par {} level r (by simp [rxRuns, hoff])
  rw [hheld, rxApplyOp_noStrobe _ _ _ Bool.noConfusion Bool.noConfusion]

/-- The registers an idle tick leaves alone. -/
theorem rxStep_idle_registers (level : Bool) :
    (rxStep par {} level r).enable = r.enable ∧ (rxStep par {} level r).divisor = r.divisor := by
  cases hen : r.enable with
  | false => rw [rxStep_idle_held level hen]; exact ⟨hen, rfl⟩
  | true =>
    obtain ⟨hkeep, hdiv, -⟩ := rxApplyEvent_frame (rxEvent par {} level r) (rxEngine par level r)
    rw [rxStep_idle_run par level r hen, hkeep, hdiv, rxEngine_frame]
    exact ⟨hen, rfl⟩

/-- After an idle tick the flags already show its event. -/
theorem rxStep_idle_shows (level : Bool) :
    (((rxEvent par {} level r).isArrival && r.ready) = true → (rxStep par {} level r).overflow = true) ∧
    ((rxEvent par {} level r).isError = true → (rxStep par {} level r).error = true) := by
  obtain ⟨hoverflow, herror, -⟩ := rxStep_sticky (par := par) (r := r) {} level
  exact ⟨fun hset => by rw [hoverflow, hset]; rfl, fun hset => by rw [herror, hset]; rfl⟩

/-- An operation without strobes adds nothing to an idle tick. -/
theorem rxStep_idle_settled (level : Bool) :
    rxApplyOp {} (rxEvent par {} level r) r.ready (rxStep par {} level r) = rxStep par {} level r := by
  obtain ⟨hoverflow, herror⟩ := rxStep_idle_shows (par := par) (r := r) level
  exact rxApplyOp_noStrobe _ _ _ hoverflow herror

/-- An operation that does not disable the direction has the event of the idle tick. -/
theorem rxEvent_eq_idle {c : RxCtl} (level : Bool) (hc : c.enable ≠ some false) :
    rxEvent par c level r = rxEvent par {} level r := by
  have hruns : rxRuns c r = rxRuns {} r := by rw [rxRuns, bne_iff_ne.2 hc]; rfl
  simp only [rxEvent, hruns]

/-- An operation that does not disable the direction comes on top of the idle tick. -/
theorem rxStep_eq_idle {c : RxCtl} (level : Bool) (hc : c.enable ≠ some false) :
    rxStep par c level r = rxApplyOp c (rxEvent par {} level r) r.ready (rxStep par {} level r) := by
  cases hen : r.enable with
  | false =>
    have hoff (c : RxCtl) : rxRuns c r = false := by simp [rxRuns, hen]
    obtain ⟨hnone, -⟩ := rxStep_held par {} level r (hoff {})
    obtain ⟨-, hheld⟩ := rxStep_held par c level r (hoff c)
    rw [hheld, hnone, rxStep_idle_held level hen]
  | true =>
    rw [rxStep_run level ((rxRuns_iff c r).2 ⟨hen, hc⟩), rxStep_idle_run par level r hen, rxEvent_eq_idle level hc]

/-- A disabling write drops the frame of its tick and holds the direction in reset (41_uart_rx.md rule R103). -/
theorem rxStep_disable (level : Bool) :
    rxEvent par { enable := some false } level r = .none ∧
    rxStep par { enable := some false } level r = { rxHold r with enable := false } := by
  obtain ⟨hnone, hheld⟩ := rxStep_held par { enable := some false } level r (by simp [rxRuns])
  have hsettled := rxApplyOp_noStrobe .none r.ready (rxHold r) Bool.noConfusion Bool.noConfusion
  exact ⟨hnone, hheld.trans (congrArg (fun u : RxDir => { u with enable := false }) hsettled)⟩

/-- An enabling write sets the enable (41_uart_rx.md rule R104). -/
theorem rxStep_enable (level : Bool) :
    rxStep par { enable := some true } level r = { rxStep par {} level r with enable := true } := by
  rw [rxStep_eq_idle level (by simp)]
  exact congrArg (fun u : RxDir => { u with enable := true }) (rxStep_idle_settled level)

/-- A PhyConfig write stores the reserved byte, and the divisor in a disabled direction (rule R129). -/
theorem rxStep_phy (w : BusWord) (level : Bool) : rxStep par { phy := some w } level r =
    { rxStep par {} level r with
      res := reservedOperand w, divisor := if r.enable then r.divisor else divisorOperand w } := by
  obtain ⟨hen, hdiv⟩ := rxStep_idle_registers (par := par) (r := r) level
  have hstep := congrArg (fun u : RxDir =>
    { u with res := reservedOperand w, divisor := if u.enable then u.divisor else divisorOperand w })
    (rxStep_idle_settled (par := par) (r := r) level)
  rw [rxStep_eq_idle level (by simp), ← hen, ← hdiv]
  exact hstep

/-- A Status write clears each flag whose bit is set and whose event does not happen in the tick (rule R132). -/
theorem rxStep_clear (clrOverflow clrError : Bool) (level : Bool) :
    rxStep par { clrOverflow := clrOverflow, clrError := clrError } level r =
    { rxStep par {} level r with
      overflow := if clrOverflow = true ∧ ¬ ((rxEvent par {} level r).isArrival && r.ready) = true then false
        else (rxStep par {} level r).overflow
      error := if clrError = true ∧ ¬ (rxEvent par {} level r).isError = true then false
        else (rxStep par {} level r).error } := by
  obtain ⟨hoverflow, herror⟩ := rxStep_idle_shows (par := par) (r := r) level
  rw [rxStep_eq_idle level (by simp), ← stickyNext_of_shown clrOverflow hoverflow, ← stickyNext_of_shown clrError herror]
  simp [rxApplyOp, clearSticky]

/-- The consume clears `ready`, but for a byte that arrives into an empty buffer (rule R134, 60_exceptions.md rule
R174). -/
theorem rxStep_consume (level : Bool) : rxStep par { consume := true } level r =
    { rxStep par {} level r with
      ready := (rxStep par {} level r).ready && ((rxEvent par {} level r).isArrival && !r.ready) } := by
  rw [rxStep_eq_idle level (by simp)]
  conv_rhs => rw [← rxStep_idle_settled level]
  simp [rxApplyOp, clearSticky]

end RxTick

/-! ### The TX direction against the tick without the operation -/

section TxTick

variable {par : Parity} {t : TxDir}

/-- The registers an idle tick leaves alone. -/
theorem txStep_idle_registers : (txStep par {} t).enable = t.enable ∧ (txStep par {} t).divisor = t.divisor := by
  cases hen : t.enable with
  | false => rw [txStep_held par {} t (by simp [txRuns, hen])]; exact ⟨hen, rfl⟩
  | true =>
    obtain ⟨hkeep, hdiv⟩ := txEngine_frame (par := par) none t
    rw [txStep_idle_run par t hen]
    exact ⟨hkeep.trans hen, hdiv⟩

/-- An operation that neither disables the direction nor offers a byte comes on top of the idle tick. -/
theorem txStep_eq_idle {c : TxCtl} (hc : c.enable ≠ some false) (hbyte : c.byte = none) :
    txStep par c t = txApplyOp c (txStep par {} t) := by
  have hruns : txRuns c t = txRuns {} t := by rw [txRuns, bne_iff_ne.2 hc]; rfl
  rw [txStep, hbyte, hruns]; rfl

/-- A disabling write cuts the frame and puts the line at 1 (42_uart_tx.md rule R119). -/
theorem txStep_disable : txStep par { enable := some false } t = { txHold t with enable := false } :=
  txStep_held par _ t (by simp [txRuns])

/-- An enabling write sets the enable (42_uart_tx.md rule R118). -/
theorem txStep_enable : txStep par { enable := some true } t = { txStep par {} t with enable := true } :=
  txStep_eq_idle (by simp) rfl

/-- A PhyConfig write stores the reserved byte, and the divisor in a disabled direction (rule R138). -/
theorem txStep_phy (w : BusWord) : txStep par { phy := some w } t =
    { txStep par {} t with
      res := reservedOperand w, divisor := if t.enable then t.divisor else divisorOperand w } := by
  obtain ⟨hen, hdiv⟩ := txStep_idle_registers (par := par) (t := t)
  rw [← hen, ← hdiv]
  exact txStep_eq_idle (by simp) rfl

/-- A byte offered to a transmitter that is not ready is dropped (rule R141). -/
theorem txStep_drop (b : Byte) (h : ¬ (t.enable = true ∧ t.phase = .idle)) :
    txStep par { byte := some b } t = txStep par {} t := by
  cases hen : t.enable with
  | false =>
    have hoff (c : TxCtl) : txRuns c t = false := by simp [txRuns, hen]
    rw [txStep_held par _ t (hoff _), txStep_held par _ t (hoff _)]; rfl
  | true =>
    have hbusy : t.phase = .busy := by
      cases hphase : t.phase with
      | idle => exact absurd ⟨hen, hphase⟩ h
      | busy => rfl
    rw [txStep_idle_run par t hen]
    simp [txStep, txRuns, txEngine, hen, hbusy]

/-- The data bits of an accepted byte stand lowest in the shift register (42_uart_tx.md rule R112). -/
theorem loadShift_data (b : Byte) {k : Nat} (hk : k < 8) : (loadShift par b).getLsbD k = b.getLsbD k := by
  by_cases hpar : par = .none
  · subst hpar
    rw [loadShift, BitVec.getLsbD_setWidth, BitVec.getLsbD_append]
    simp [hk, show k < 10 by omega]
  · rw [loadShift_parity hpar, BitVec.getLsbD_append]
    simp [hk]

/-- With parity the bit above the data is the parity bit. -/
theorem loadShift_parityBit (hpar : par ≠ .none) (b : Byte) : (loadShift par b).getLsbD 8 = parityBit par b := by
  rw [loadShift_parity hpar, BitVec.getLsbD_append, BitVec.getLsbD_append]
  simp

end TxTick

/-! ### The statements about the reads -/

/-- Settles O12: the reads raise no strobe (`present_value`). -/
theorem rxReadsReturnFieldsAndChangeNothing : Obligations.RxReadsReturnFieldsAndChangeNothing := by
  refine ⟨selects_csrSelector false .rxConfig, selects_csrSelector false .rxPhyConfig,
    selects_csrSelector false .rxStatus, fun s hrst => ?_⟩
  rw [← bitWord_eq, ← phyWord_eq, ← rxStatusWord_eq]
  exact ⟨present_value _ hrst, present_value _ hrst, present_value _ hrst⟩

/-- Settles O13: the reads raise no strobe (`present_value`). -/
theorem txReadsReturnFieldsAndChangeNothing : Obligations.TxReadsReturnFieldsAndChangeNothing := by
  refine ⟨selects_csrSelector false .txConfig, selects_csrSelector false .txPhyConfig,
    selects_csrSelector false .txStatus, selects_csrSelector false .txData, fun s hrst => ?_⟩
  rw [← bitWord_eq, ← phyWord_eq, ← bitWord_txReady]
  exact ⟨present_value _ hrst, present_value _ hrst, present_value _ hrst, present_value _ hrst⟩

/-- Settles O14: the tick is the idle tick but for `ready` (`rxStep_consume`), and what an arrival does to buffer and
flags is O25. -/
theorem rxDataReadConsumesTheByte : Obligations.RxDataReadConsumesTheByte := by
  refine ⟨selects_csrSelector false .rxData, fun s hrst => ?_⟩
  obtain ⟨t, hexec, hrest, hrdata, hrx, -⟩ := present_rx { consume := true } (some (byteWord s.rx.buf)) hrst
  obtain ⟨-, -, hbuf⟩ := rxStep_sticky (par := s.cfg.parity) (r := s.rx) {} (lineLevel s.ports s.tx)
  obtain ⟨hempty, hfull, -⟩ := rxEventsSetBufferAndFlags noOp s.ports s hrst
  rw [rxStep_consume, ← idleTick_rx hrst, ← idleTick_event hrst] at hrx
  rw [← idleTick_rx hrst, ← idleTick_event hrst] at hbuf
  refine ⟨t, hexec, hrest, by rw [hrdata, byteWord_eq], fun hno => ?_, fun b harr hready => ?_, fun b harr hready => ?_⟩
  · obtain ⟨hkept, hlost⟩ := rxApplyEvent_stores_nothing hno
    rw [hlost, Bool.and_false] at hrx
    exact ⟨hrx, by rw [hrx]; exact hbuf.trans hkept⟩
  · obtain ⟨hstored, hannounced, -⟩ := hempty b harr hready
    have hsame : t.rx = (idleTick s).rx := by rw [hrx, harr, hready]; simp [RxEvent.isArrival]
    rw [hsame]
    exact ⟨rfl, hstored, hannounced⟩
  · obtain ⟨hkept, -, hoverflow, -⟩ := hfull b harr hready
    rw [hrx]
    exact ⟨hkept, by simp [hready], hoverflow⟩

/-! ### The statements about the writes -/

/-- Settles O15, by `rxStep_disable` and `rxStep_enable`. -/
theorem rxConfigWriteEnablesOrResets : Obligations.RxConfigWriteEnablesOrResets := by
  refine ⟨selects_csrSelector true .rxConfig, fun w s hrst => ?_⟩
  obtain ⟨t, hexec, hrest, -, hrx, hevent⟩ := present_rx { enable := some (enableOperand w) } none hrst
  refine ⟨t, hexec, hrest, fun hoff => ?_, fun hon => ?_⟩
  · rw [enableOperand, hoff] at hrx hevent
    obtain ⟨hnone, hheld⟩ := rxStep_disable (par := s.cfg.parity) (r := s.rx) (lineLevel s.ports s.tx)
    exact ⟨hrx.trans hheld, hevent.trans hnone⟩
  · rw [hrx, enableOperand, hon, rxStep_enable, idleTick_rx hrst]

/-- Settles O16, by `rxStep_phy`. -/
theorem rxPhyConfigWriteIsGated : Obligations.RxPhyConfigWriteIsGated := by
  refine ⟨selects_csrSelector true .rxPhyConfig, fun w s hrst => ?_⟩
  obtain ⟨t, hexec, hrest, -, hrx, -⟩ := present_rx { phy := some w } none hrst
  refine ⟨t, hexec, hrest, ?_⟩
  rw [hrx, rxStep_phy, idleTick_rx hrst, reservedOperand_eq, divisorOperand_eq]

/-- Settles O17, by `rxStep_clear`. -/
theorem rxStatusWriteClearsStickyFlags : Obligations.RxStatusWriteClearsStickyFlags := by
  refine ⟨selects_csrSelector true .rxStatus, fun w s hrst => ?_⟩
  obtain ⟨t, hexec, hrest, -, hrx, -⟩ :=
    present_rx { clrOverflow := clrOverflowOperand w, clrError := clrErrorOperand w } none hrst
  refine ⟨t, hexec, hrest, ?_⟩
  rw [hrx, rxStep_clear, ← idleTick_rx hrst, ← idleTick_event hrst]
  simp only [Bool.and_eq_true, isArrival_iff, isError_iff]
  rfl

/-- Settles O18: neither write raises a strobe. -/
theorem ignoredRegisterWritesChangeNothing : Obligations.IgnoredRegisterWritesChangeNothing :=
  ⟨selects_csrSelector true .rxData, selects_csrSelector true .txStatus, fun _ s _ =>
    ⟨present_eq noOp s, present_eq noOp s⟩⟩

/-- Settles O19, by `txStep_disable` and `txStep_enable`. -/
theorem txConfigWriteEnablesOrResets : Obligations.TxConfigWriteEnablesOrResets := by
  refine ⟨selects_csrSelector true .txConfig, fun w s hrst => ?_⟩
  obtain ⟨t, hexec, hrest, htx⟩ := present_tx { enable := some (enableOperand w) } hrst
  refine ⟨t, hexec, hrest, fun hoff => ?_, fun hon => ?_⟩
  · rw [enableOperand, hoff, txStep_disable] at htx
    rw [htx]
    exact ⟨rfl, rfl⟩
  · rw [htx, enableOperand, hon, txStep_enable, idleTick_tx hrst]

/-- Settles O20, by `txStep_phy`. -/
theorem txPhyConfigWriteIsGated : Obligations.TxPhyConfigWriteIsGated := by
  refine ⟨selects_csrSelector true .txPhyConfig, fun w s hrst => ?_⟩
  obtain ⟨t, hexec, hrest, htx⟩ := present_tx { phy := some w } hrst
  refine ⟨t, hexec, hrest, ?_⟩
  rw [htx, txStep_phy, idleTick_tx hrst, reservedOperand_eq, divisorOperand_eq]

/-- Settles O21: a ready transmitter accepts the byte (`txStep_accept`) and any other drops it (`txStep_drop`). -/
theorem txDataWriteSendsOrIsDropped : Obligations.TxDataWriteSendsOrIsDropped := by
  refine ⟨selects_csrSelector true .txData, fun w s hrst => ?_⟩
  obtain ⟨t, hexec, hrest, htx⟩ := present_tx { byte := some (byteOperand w) } hrst
  refine ⟨t, hexec, hrest, fun hen hidle => ?_, fun hnot => ?_⟩
  · rw [txStep_accept hen hidle] at htx
    have hshreg : t.tx.shreg = loadShift s.cfg.parity (byteOperand w) := by rw [htx]; rfl
    refine ⟨by rw [hshreg, htx]; rfl, fun k hk => ?_, fun hpar => ?_, fun hpar => ?_⟩
    · rw [hshreg, loadShift_data _ hk]
      simp [byteOperand, hk]
    · have hstop := loadShift_stop (par := s.cfg.parity) (byteOperand w)
      rw [hshreg]
      rw [hpar] at hstop ⊢
      exact ⟨hstop, loadShift_top _ rfl⟩
    · have hstop := loadShift_stop (par := s.cfg.parity) (byteOperand w)
      rw [frameLength_of_parity hpar] at hstop
      rw [hshreg]
      exact ⟨loadShift_parityBit hpar _, hstop⟩
  · rw [htx, txStep_drop _ hnot, idleTick_tx hrst]

/-! ### The statements about the sticky flags -/

/-- Only an RxStatus write with bit 1 set strobes the clear of `overflow`. -/
theorem eq_wrRxStatus_of_clrOverflow {i : Instr} {s : State} (h : (busOpOf i s).rx.clrOverflow = true) :
    ∃ w, i = .wrRxStatus w ∧ w.getLsbD 1 = true := by
  cases i with
  | wrRxStatus w => exact ⟨w, rfl, h⟩
  | _ => cases h

/-- Only an RxStatus write with bit 2 set strobes the clear of `error`. -/
theorem eq_wrRxStatus_of_clrError {i : Instr} {s : State} (h : (busOpOf i s).rx.clrError = true) :
    ∃ w, i = .wrRxStatus w ∧ w.getLsbD 2 = true := by
  cases i with
  | wrRxStatus w => exact ⟨w, rfl, h⟩
  | _ => cases h

/-- Levels driven on the line clear no sticky flag. -/
theorem driveLine_keeps_sticky (d : Nat) (levels : List Bool) {s : State} (hrst : s.ports.rst = false) :
    (s.rx.overflow = true → (driveLine d levels s).rx.overflow = true) ∧
    (s.rx.error = true → (driveLine d levels s).rx.error = true) := by
  refine (driveLine_keeps (I := fun u => u.ports.rst = false ∧ (s.rx.overflow = true → u.rx.overflow = true) ∧
    (s.rx.error = true → u.rx.error = true)) (fun level u ⟨hu, hoverflow, herror⟩ => ?_) d levels s
    ⟨hrst, id, id⟩).2
  obtain ⟨hoverflow', herror', -⟩ := rxStep_sticky (par := u.cfg.parity) (r := u.rx) {} level
  rw [lineTick_rx level hu, hoverflow', herror']
  refine ⟨(lineTick_rst u level).trans hu, fun hset => ?_, fun hset => ?_⟩
  · rw [hoverflow hset]; simp [stickyNext]
  · rw [herror hset]; simp [stickyNext]

/-- Settles O54: by the law of `rxStep_sticky` a flag falls only where the operation strobes its clear; a line frame
strobes none. -/
theorem stickyFlagsAreClearedOnlyByStatusWrites : Obligations.StickyFlagsAreClearedOnlyByStatusWrites := by
  intro i s t hrst hexec
  cases hl : isLineFrame i with
  | true =>
    obtain ⟨levels, rfl⟩ := exec_line_frame hl hexec
    obtain ⟨hoverflow, herror⟩ := driveLine_keeps_sticky s.rx.divisor.toNat levels hrst
    exact ⟨fun hset hclear => by simp [hoverflow hset] at hclear, fun hset hclear => by simp [herror hset] at hclear⟩
  | false =>
    obtain ⟨hoverflow, herror, -⟩ :=
      rxStep_sticky (par := s.cfg.parity) (r := s.rx) (busOpOf i s).rx (lineLevel s.ports s.tx)
    rw [exec_rx hl hexec, hrst, if_neg Bool.false_ne_true, hoverflow, herror]
    refine ⟨fun hset hclear => ?_, fun hset hclear => ?_⟩
    · rw [hset] at hclear; exact eq_wrRxStatus_of_clrOverflow (clear_of_stickyNext hclear)
    · rw [hset] at hclear; exact eq_wrRxStatus_of_clrError (clear_of_stickyNext hclear)

theorem tick_event (op : BusOp) (p : Ports) (s : State) : (tick op p s).out.event =
    if p.rst then .none else rxEvent s.cfg.parity op.rx (lineLevel p s.tx) s.rx := by
  unfold tick; split <;> rfl

/-- The event of an operation of one tick. -/
theorem exec_event {i : Instr} {s t : State} (hl : isLineFrame i = false) (h : exec i s = .next t) : t.out.event =
    if s.ports.rst then .none else rxEvent s.cfg.parity (busOpOf i s).rx (lineLevel s.ports s.tx) s.rx := by
  have hp := tickPorts_sameLevels i s
  rw [eq_tick_of_exec_next hl h, tick_event, hp.rst]
  simp [hp.lineLevel]

/-- Settles O55: by the law of `rxStep_sticky` a flag that was 0 is the event of its kind; a reset tick sets none. -/
theorem stickyFlagsAreSetOnlyByEvents : Obligations.StickyFlagsAreSetOnlyByEvents := by
  intro i s t hl hexec
  have hrx := exec_rx hl hexec
  have hevent := exec_event hl hexec
  cases hrst : s.ports.rst with
  | true =>
    rw [hrst, if_pos rfl] at hrx
    rw [hrx]
    exact ⟨fun _ h => Bool.noConfusion h, fun _ h => Bool.noConfusion h⟩
  | false =>
    obtain ⟨hoverflow, herror, -⟩ :=
      rxStep_sticky (par := s.cfg.parity) (r := s.rx) (busOpOf i s).rx (lineLevel s.ports s.tx)
    rw [hrst, if_neg Bool.false_ne_true] at hrx hevent
    rw [← hrx, ← hevent] at hoverflow herror
    refine ⟨fun hclear hset => ?_, fun hclear hset => ?_⟩
    · rw [hoverflow, hclear, stickyNext_of_clear, Bool.and_eq_true, isArrival_iff] at hset
      exact hset.symm
    · rw [herror, hclear, stickyNext_of_clear, isError_iff] at hset
      exact hset

end Sys2Proof.Machine

/-! SUPPORT. One rule a phase for the Sequencer and one an item for the lane peer; a flash read in flight, kept in step by
every tick; a read with a prompt peer, tick by tick; and the proofs of the statements of 44_qspi_sequencer.md. -/

namespace Sys2Proof.Machine

/-! ### One tick of the Sequencer in each phase -/

/-- The last byte's index is `W - 1`. -/
theorem W_sub_one (P : Params) : P.W - 1 = P.lastByte := Nat.add_sub_cancel ..

section SeqTick

variable {P : Params} {q : Sequencer} (took : Bool) (gave : Option Byte)

/-- The command byte taken starts the transaction (44_qspi_sequencer.md rule R152). -/
theorem seqStep_idle (h : q.phase = .idle) : seqStep P took gave q =
    if took then { q with aIdx := 2, result := List.replicate P.W 0, phase := .sendAddress } else q := by
  simp [seqStep, h]

/-- An address byte taken moves on to the next, the last to `RECEIVE_DATA` (44_qspi_sequencer.md rule R154). -/
theorem seqStep_sendAddress (h : q.phase = .sendAddress) : seqStep P took gave q =
    if took then (if q.aIdx ≠ 0 then { q with aIdx := q.aIdx - 1 } else { q with phase := .receiveData }) else q := by
  simp [seqStep, h]

/-- Without an inbound byte only the offer counter moves (44_qspi_sequencer.md rule R156). -/
theorem seqStep_receive_none (h : q.phase = .receiveData) :
    seqStep P took none q = { q with oCnt := q.oCnt + took.toNat } := by
  obtain ⟨ph, a, o, i, res, ack⟩ := q
  cases h
  cases took <;> rfl

/-- A byte before the `W`-th is stored beside the offer (44_qspi_sequencer.md rule R158). -/
theorem seqStep_receive_byte (b : Byte) (h : q.phase = .receiveData) (hi : q.iCnt ≠ P.lastByte) :
    seqStep P took (some b) q =
      { q with oCnt := q.oCnt + took.toNat, iCnt := q.iCnt + 1, result := q.result.set q.iCnt b } := by
  cases took <;> simp [seqStep, storeByte, h, hi]

/-- The `W`-th byte completes, whatever the offer of its tick (44_qspi_sequencer.md rule R159). -/
theorem seqStep_receive_last (b : Byte) (h : q.phase = .receiveData) (hi : q.iCnt = P.lastByte) :
    seqStep P took (some b) q =
      { q with oCnt := 0, iCnt := 0, phase := .deselect, ack := true, result := q.result.set q.iCnt b } := by
  cases took <;> simp [seqStep, storeByte, h, hi]

/-- `ack` is cleared in every tick of `DESELECT`, and the item taken ends the transaction (44_qspi_sequencer.md rules
R160, R161). -/
theorem seqStep_deselect (h : q.phase = .deselect) : seqStep P took gave q =
    if took then { q with ack := false, phase := .idle } else { q with ack := false } := by
  simp [seqStep, h]

/-- Outside `DESELECT` there is no `ack` (44_qspi_sequencer.md rule R160). -/
theorem ack_eq_false (hinv : SeqInv P q) (h : q.phase ≠ .deselect) : q.ack = false := by
  obtain ⟨-, -, -, -, -, hack, -⟩ := hinv
  by_contra hset
  exact h (hack (by simpa using hset))

end SeqTick

/-- Settles O46: `ack` is raised by the `W`-th byte alone (`seqStep_receive_last`), and is 0 after every other tick. -/
theorem ackLastsExactlyOneTick : Obligations.AckLastsExactlyOneTick := by
  intro op p s hgood hrst
  obtain ⟨-, -, hinv⟩ := hgood
  have hclear := ack_eq_false hinv
  obtain ⟨-, -, -, -, -, hack, -⟩ := hinv
  rw [tick_run op s hrst, runTick_seq, W_sub_one]
  cases hp : s.seq.phase with
  | idle => rw [seqStep_idle _ _ hp]; split <;> simp [hclear, hp]
  | sendAddress => rw [seqStep_sendAddress _ _ hp]; split_ifs <;> simp [hclear, hp]
  | deselect => rw [seqStep_deselect _ _ hp]; split <;> simp
  | receiveData =>
    have hno : s.seq.ack = false := hclear (by simp [hp])
    rw [inXfer_of_receive hp]
    cases hb : inOffer p s.peer with
    | none => rw [seqStep_receive_none _ hp]; simp [hno]
    | some b =>
      by_cases hi : s.seq.iCnt = s.cfg.lastByte
      · rw [seqStep_receive_last _ b hp hi]; simp [hno, hi]
      · rw [seqStep_receive_byte _ b hp hi]; simp [hno, hi]

/-! ### The outbound transfer of a tick (40_byte_lane.md rule R80) -/

/-- The item of a tick is the item on offer, or none. -/
theorem outXfer_cases (P : Params) (p : Ports) (q : Sequencer) :
    outXfer P p q = none ∨ outXfer P p q = some (outItem p q) := by
  unfold outXfer; split <;> simp

theorem outXfer_of_not_offered {P : Params} {p : Ports} {q : Sequencer} (h : outValid P p q = false) :
    outXfer P p q = none := by simp [outXfer, h]

theorem outXfer_of_ready {P : Params} {p : Ports} {q : Sequencer} (h : outValid P p q = true)
    (hready : p.outReady = true) : outXfer P p q = some (outItem p q) := by simp [outXfer, h, hready]

/-! ### One tick of the lane peer -/

section PeerTick

variable (r : Peer)

/-- The peer records the item of the tick. -/
@[simp] theorem peerStep_taken (took : Option LaneItem) (gave : Option Byte) :
    (peerStep took gave r).taken = took.toList ++ r.taken := by
  cases took <;> cases gave <;> simp [peerStep]

/-- A single-lane byte taken is remembered until the deselect. -/
theorem peerStep_txSingle (b : Byte) : peerStep (some { mode := .txSingle, payload := b }) none r =
    { r with taken := { mode := .txSingle, payload := b } :: r.taken, sent := r.sent ++ [b] } := rfl

/-- A deselect ends the command. -/
theorem peerStep_deselect (b : Byte) : peerStep (some { mode := .deselect, payload := b }) none r =
    { r with taken := { mode := .deselect, payload := b } :: r.taken, sent := [], served := 0 } := rfl

/-- In a tick that takes no other item than a receive offer, the oldest byte owed goes when a byte is given, and the
offer makes the peer owe the next one of flash. -/
theorem peerStep_rxData {took : Option LaneItem} (gave : Option Byte) (h : ∀ it ∈ took, it.mode = .rxData) :
    (peerStep took gave r).sent = r.sent ∧
    (peerStep took gave r).served = r.served + took.isSome.toNat ∧
    (peerStep took gave r).owed = r.owed.drop gave.isSome.toNat ++
      if took.isSome then [Config.flashByte (commandAddress r.sent + r.served)] else [] := by
  cases took with
  | none => cases gave <;> simp [peerStep]
  | some it =>
    have hmode : it.mode = .rxData := h it rfl
    cases gave <;> simp [peerStep, peerTake, hmode]

end PeerTick

/-! ### The tick of a lane item -/

/-- The item is on offer exactly where the Sequencer stands at its place and offers it. -/
theorem onOffer_iff (place : ItemPlace) (it : LaneItem) (p : Ports) (s : State) :
    onOffer place it p s = true ↔ placeOf s.seq = place ∧ outValid s.cfg p s.seq = true ∧ outItem p s.seq = it := by
  simp [onOffer, and_assoc]

/-- A peer ready for one item takes that item or none. -/
theorem outXfer_readyFor (place : ItemPlace) (it : LaneItem) (s : State) :
    outXfer s.cfg (readyFor place it s) s.seq = if onOffer place it s.ports s then some it else none := by
  have hvalid : outValid s.cfg (readyFor place it s) s.seq = outValid s.cfg s.ports s.seq := rfl
  have hitem : outItem (readyFor place it s) s.seq = outItem s.ports s.seq := rfl
  have hready : (readyFor place it s).outReady = onOffer place it s.ports s := rfl
  rw [outXfer, hvalid, hitem, hready]
  by_cases h : onOffer place it s.ports s = true
  · obtain ⟨-, hv, hi⟩ := (onOffer_iff ..).1 h
    simp [h, hv, hi]
  · simp [h]

/-- A tick with a peer ready for one item reaches the Sequencer, the peer and the outputs only. -/
theorem acceptItem_lane (place : ItemPlace) (it : LaneItem) {s : State} (hrst : s.ports.rst = false) :
    ∃ t, acceptItem place it s = .next t ∧ RestAsIdleButLane s t ∧
      t.seq = seqStep s.cfg (onOffer place it s.ports s) (inXfer s.ports s.peer s.seq) s.seq ∧
      t.peer = peerStep (if onOffer place it s.ports s then some it else none) (inXfer s.ports s.peer s.seq) s.peer ∧
      t.out.outValid = outValid s.cfg s.ports s.seq := by
  have hexec : acceptItem place it s = .next (runTick noOp (readyFor place it s) s) := by
    rw [acceptItem_eq, ← tick_run noOp s (p := readyFor place it s) hrst]; rfl
  have hxfer := outXfer_readyFor place it s
  refine ⟨_, hexec, by rw [RestAsIdleButLane, idleTick_run hrst]; rfl, ?_, ?_, rfl⟩
  · rw [runTick_seq, hxfer]
    cases onOffer place it s.ports s <;> rfl
  · rw [runTick_peer, hxfer]; rfl

/-- Outside `RECEIVE_DATA` the tick of an item has no inbound byte. -/
theorem acceptItem_of_not_receive (place : ItemPlace) (it : LaneItem) {s : State} (hrst : s.ports.rst = false)
    (hp : s.seq.phase ≠ .receiveData) :
    ∃ t, acceptItem place it s = .next t ∧ RestAsIdleButLane s t ∧
      t.seq = seqStep s.cfg (onOffer place it s.ports s) none s.seq ∧
      t.peer = peerStep (if onOffer place it s.ports s then some it else none) none s.peer := by
  obtain ⟨t, hexec, hrest, hseq, hpeer, -⟩ := acceptItem_lane place it hrst
  rw [inXfer_of_not_receive hp] at hseq hpeer
  exact ⟨t, hexec, hrest, hseq, hpeer⟩

/-- In `IDLE` the command byte is on offer exactly for a request that qualifies. -/
theorem onOffer_command {s : State} (h : s.seq.phase = .idle) :
    onOffer .command { mode := .txSingle, payload := Config.cmdRead } s.ports s = qualifies s.ports := by
  obtain ⟨hvalid, hitem⟩ := offer_idle s.cfg s.ports h
  simp [onOffer, placeOf, h, hvalid, hitem]

/-- In `SEND_ADDRESS` an item of the current place is on offer exactly when it carries the byte of the address. -/
theorem onOffer_address (b : Byte) {s : State} (h : s.seq.phase = .sendAddress) :
    onOffer (.address s.seq.aIdx) { mode := .txSingle, payload := b } s.ports s = true ↔
      b = addressByte s.ports.reqAddress s.seq.aIdx.toNat := by
  obtain ⟨hvalid, hitem⟩ := offer_sendAddress s.cfg s.ports h
  rw [onOffer_iff, hvalid, hitem]
  simpa [placeOf, h] using eq_comm

/-- In `RECEIVE_DATA` an offer stands until `W` of them have been taken. -/
theorem onOffer_offer {s : State} (h : s.seq.phase = .receiveData) :
    onOffer .offer { mode := .rxData, payload := Config.dummyPayload } s.ports s = (s.seq.oCnt != s.cfg.W) := by
  obtain ⟨hvalid, hitem⟩ := offer_receiveData s.cfg s.ports h
  simp [onOffer, placeOf, h, hvalid, hitem]

/-- In `DESELECT` the deselect item is on offer. -/
theorem onOffer_deselect {s : State} (h : s.seq.phase = .deselect) :
    onOffer .deselect { mode := .deselect, payload := Config.dummyPayload } s.ports s = true := by
  obtain ⟨hvalid, hitem⟩ := offer_deselect s.cfg s.ports h
  simp [onOffer, placeOf, h, hvalid, hitem]

/-- Settles O38: in `IDLE` the command byte is taken exactly for a request that qualifies (`onOffer_command`). -/
theorem commandByteStartsTheTransaction : Obligations.CommandByteStartsTheTransaction := by
  intro i s hi hrst hp
  have hexec : exec i s = acceptItem .command { mode := .txSingle, payload := Config.cmdRead } s := by
    rcases hi with rfl | rfl <;> rfl
  obtain ⟨t, hnext, hrest, hseq, hpeer⟩ := acceptItem_of_not_receive .command
    { mode := .txSingle, payload := Config.cmdRead } hrst (by simp [hp])
  rw [onOffer_command hp, seqStep_idle _ _ hp] at hseq
  rw [onOffer_command hp] at hpeer
  refine ⟨t, hexec.trans hnext, hrest, fun hvalid hread => ?_, fun hnone => ?_⟩
  · rw [(qualifies_iff _).2 ⟨hvalid, hread⟩, if_pos rfl] at hseq hpeer
    exact ⟨hseq, hpeer⟩
  · rw [← qualifies_iff] at hnone
    rw [if_neg hnone] at hseq hpeer
    exact ⟨hseq, hpeer⟩

/-- The tick of an address item: taken when it carries the byte of the address the Sequencer stands at. -/
theorem acceptItem_address (b : Byte) {s : State} (hrst : s.ports.rst = false) (hp : s.seq.phase = .sendAddress) :
    ∃ t, acceptItem (.address s.seq.aIdx) { mode := .txSingle, payload := b } s = .next t ∧ RestAsIdleButLane s t ∧
      (b.toNat = s.ports.reqAddress.toNat / 256 ^ s.seq.aIdx.toNat % 256 →
        t.seq = (if s.seq.aIdx ≠ 0 then { s.seq with aIdx := s.seq.aIdx - 1 }
          else { s.seq with phase := .receiveData }) ∧
        t.peer.taken = { mode := .txSingle, payload := b } :: s.peer.taken) ∧
      (b.toNat ≠ s.ports.reqAddress.toNat / 256 ^ s.seq.aIdx.toNat % 256 → t.seq = s.seq ∧ t.peer = s.peer) := by
  obtain ⟨t, hnext, hrest, hseq, hpeer⟩ := acceptItem_of_not_receive (.address s.seq.aIdx)
    { mode := .txSingle, payload := b } hrst (by simp [hp])
  rw [seqStep_sendAddress _ _ hp] at hseq
  have hoffer := onOffer_address b hp
  rw [BitVec.toNat_eq, addressByte_toNat] at hoffer
  refine ⟨t, hnext, hrest, fun hb => ?_, fun hb => ?_⟩
  · rw [if_pos (hoffer.2 hb)] at hseq hpeer
    exact ⟨hseq, by rw [hpeer, peerStep_taken]; rfl⟩
  · rw [if_neg (mt hoffer.1 hb)] at hseq hpeer
    exact ⟨hseq, hpeer⟩

/-- The three address items differ in their place only (30_encoding.md rule R68). -/
theorem exec_seqAddr (b : Byte) (s : State) :
    exec (.seqAddr2 b) s = acceptItem (.address 2) { mode := .txSingle, payload := b } s ∧
    exec (.seqAddr1 b) s = acceptItem (.address 1) { mode := .txSingle, payload := b } s ∧
    exec (.seqAddr0 b) s = acceptItem (.address 0) { mode := .txSingle, payload := b } s := ⟨rfl, rfl, rfl⟩

/-- Settles O39: each of the three places is `acceptItem_address` at its index. -/
theorem addressBytesGoMostSignificantFirst : Obligations.AddressBytesGoMostSignificantFirst := by
  intro b s hrst hp
  have hlt := s.ports.reqAddress.isLt
  have htop : s.ports.reqAddress.toNat / 65536 % 256 = s.ports.reqAddress.toNat / 65536 := by omega
  have hitem := acceptItem_address b hrst hp
  obtain ⟨h2, h1, h0⟩ := exec_seqAddr b s
  rw [h2, h1, h0]
  refine ⟨fun ha => ?_, fun ha => ?_, fun ha => ?_⟩
  · simpa [ha, htop] using hitem
  · simpa [ha] using hitem
  · simpa [ha] using hitem

/-- Settles O40: the offer is taken while one is left (`onOffer_offer`), and the inbound byte of the tick decides what
the Sequencer makes of it. -/
theorem receiveOfferAdvancesTheOfferCounter : Obligations.ReceiveOfferAdvancesTheOfferCounter := by
  intro s hrst hp
  obtain ⟨t, hnext, hrest, hseq, hpeer, hout⟩ := acceptItem_lane .offer
    { mode := .rxData, payload := Config.dummyPayload } hrst
  rw [onOffer_offer hp, inXfer_of_receive hp] at hseq hpeer
  rw [(offer_receiveData _ _ hp).1] at hout
  rw [W_sub_one]
  refine ⟨t, hnext, hrest, fun hleft => ?_, fun hfull => ?_⟩
  · rw [bne_iff_ne.2 hleft] at hseq hpeer
    refine ⟨by rw [hpeer, peerStep_taken]; rfl, fun hb => ?_, fun b hb hi => ?_, fun b hb hi => ?_⟩
    · rw [hseq, hb, seqStep_receive_none _ hp]; rfl
    · rw [hseq, hb, seqStep_receive_byte _ b hp hi]; rfl
    · rw [hseq, hb, seqStep_receive_last _ b hp hi]
  · rw [hfull, bne_self_eq_false] at hpeer hout
    exact ⟨by rw [hpeer, peerStep_taken]; rfl, hout⟩

/-- Settles O41: in `DESELECT` the item is always on offer (`onOffer_deselect`). -/
theorem deselectEndsTheTransaction : Obligations.DeselectEndsTheTransaction := by
  intro s hrst hp
  obtain ⟨t, hnext, hrest, hseq, hpeer⟩ := acceptItem_of_not_receive .deselect
    { mode := .deselect, payload := Config.dummyPayload } hrst (by simp [hp])
  rw [onOffer_deselect hp, if_pos rfl] at hpeer
  rw [onOffer_deselect hp, seqStep_deselect _ _ hp, if_pos rfl] at hseq
  exact ⟨t, hnext, hrest, hseq, by rw [hpeer, peerStep_taken]; rfl⟩

/-! ### The inbound byte -/

/-- Settles O42: the byte on the wires is the inbound transfer in `RECEIVE_DATA`, and no transfer elsewhere. -/
theorem inboundByteIsStoredInReceiveDataOnly : Obligations.InboundByteIsStoredInReceiveDataOnly := by
  intro b s hrst
  have hnext : exec (.seqRxByte b) s =
      .next (runTick noOp { s.ports with inValid := true, inPayload := b, inFromPeer := false } s) := by
    rw [exec_eq_tick rfl rfl, tick_run _ _ (by exact hrst)]; rfl
  refine ⟨_, hnext, by rw [RestAsIdleButLane, idleTick_run hrst]; rfl, fun hp hi => ?_, fun hp hi => ?_, fun hp => ?_⟩
  · rw [W_sub_one] at hi
    rw [runTick_seq, outXfer_isSome, (offer_receiveData _ _ hp).1, inXfer_of_receive hp]
    show seqStep _ _ (some b) _ = _
    rw [seqStep_receive_byte _ b hp hi]
    by_cases ho : s.seq.oCnt = s.cfg.W <;> cases hr : s.ports.outReady <;> simp [ho]
  · rw [W_sub_one] at hi
    rw [runTick_seq, inXfer_of_receive hp]
    exact seqStep_receive_last _ b hp hi
  · rw [idleTick_run hrst, runTick_seq, runTick_seq, inXfer_of_not_receive hp, inXfer_of_not_receive hp]
    rfl

/-! ### Requests -/

/-- A request put on the port reaches the Sequencer and the ports; RX and TX tick as without it. -/
theorem request_run (valid isRead : Bool) (a : FlashAddr) {s : State} (hrst : s.ports.rst = false) :
    ∃ t, request valid isRead a s = .next t ∧ t.cfg = s.cfg ∧ t.rx = (idleTick s).rx ∧ t.tx = (idleTick s).tx ∧
      t = runTick noOp (s.ports.withRequest valid isRead a) (s.withPorts (s.ports.withRequest valid isRead a)) := by
  refine ⟨_, ?_, ?_, ?_, ?_, rfl⟩
  · rw [request_eq, idleTick_run (by exact hrst)]; rfl
  · rfl
  · rw [idleTick_run hrst]; rfl
  · rw [idleTick_run hrst]; rfl

/-- Only in `IDLE` does the request bear on whether an item is transferred (44_qspi_sequencer.md rule R165). -/
theorem outXfer_isSome_withRequest {P : Params} {q : Sequencer} (h : q.phase ≠ .idle) (p : Ports)
    (valid isRead : Bool) (a : FlashAddr) :
    (outXfer P (p.withRequest valid isRead a) q).isSome = (outXfer P p q).isSome := by
  rw [outXfer_isSome, outXfer_isSome, withRequest_outReady]
  cases hp : q.phase with
  | idle => exact absurd hp h
  | sendAddress | receiveData | deselect => simp [outValid, hp]

/-- Settles O43: in `IDLE` the request qualifies, so the lane's readiness decides; elsewhere the Sequencer does not look
at it (`outXfer_isSome_withRequest`). -/
theorem readRequestIsTakenOnlyWhenIdle : Obligations.ReadRequestIsTakenOnlyWhenIdle := by
  intro a s hrst
  obtain ⟨t, hnext, hcfg, hrx, htx, rfl⟩ := request_run true true a hrst
  have hready : s.seq.phase = .idle →
      (outXfer s.cfg (s.ports.withRequest true true a) s.seq).isSome = s.ports.outReady := fun hp => by
    rw [outXfer_isSome, (offer_idle _ _ hp).1]; simp [qualifies]
  refine ⟨_, hnext, hcfg, hrx, htx, rfl, fun hp hlane => ?_, fun hp hlane => ?_, fun hp => ?_⟩
  · rw [runTick_seq, withPorts_cfg, withPorts_seq, hready hp, seqStep_idle _ _ hp, hlane, if_pos rfl]
  · rw [runTick_seq, withPorts_cfg, withPorts_seq, hready hp, seqStep_idle _ _ hp, hlane, if_neg Bool.false_ne_true]
  · rw [idleTick_run hrst, runTick_seq, runTick_seq, withPorts_cfg, withPorts_seq, outXfer_isSome_withRequest hp]
    rfl

/-- The Sequencer rests: it stands in `IDLE` as in `s`, no request qualifies, and the lane has been offered nothing. -/
structure SeqRests (s u : State) : Prop where
  rst      : u.ports.rst = false
  noRead   : qualifies u.ports = false
  seq      : u.seq = s.seq
  peer     : u.peer = s.peer
  outValid : u.out.outValid = false

/-- In `IDLE` a tick without a request that qualifies leaves the Sequencer at rest. -/
theorem runTick_seqRests {s u : State} (hp : s.seq.phase = .idle) (hrst : u.ports.rst = false)
    (hno : qualifies u.ports = false) (hseq : u.seq = s.seq) (hpeer : u.peer = s.peer) :
    SeqRests s (runTick noOp u.ports u) := by
  have hidle : u.seq.phase = .idle := by rw [hseq, hp]
  have hvalid : outValid u.cfg u.ports u.seq = false := (offer_idle _ _ hidle).1.trans hno
  have hxfer : outXfer u.cfg u.ports u.seq = none := outXfer_of_not_offered hvalid
  have hgave : inXfer u.ports u.peer u.seq = none := inXfer_of_not_receive (by simp [hidle])
  refine ⟨hrst, ?_, ?_, ?_, hvalid⟩
  · have hkept : qualifies (dropOnAck u.seq.ack u.ports) = (qualifies u.ports && !u.seq.ack) :=
      Bool.and_right_comm ..
    rw [runTick_ports, hkept, hno, Bool.false_and]
  · rw [runTick_seq, hxfer, seqStep_idle _ _ hidle]; exact hseq
  · rw [runTick_peer, hxfer, hgave]; exact hpeer

/-- A Sequencer at rest stays at rest. -/
theorem idleTicks_seqRests {s t : State} (hp : s.seq.phase = .idle) (h : SeqRests s t) (n : Nat) :
    SeqRests s (idleTicks n t) := by
  refine idleTicks_keeps (I := SeqRests s) (fun u hu => ?_) n t h
  obtain ⟨hrst, hno, hseq, hpeer, -⟩ := hu
  rw [idleTick_run hrst]
  exact runTick_seqRests hp hrst hno hseq hpeer

/-- In `IDLE` a request that does not qualify leaves the Sequencer at rest for ever. -/
theorem request_seqRests {valid isRead : Bool} (a : FlashAddr) {s : State} (hrst : s.ports.rst = false)
    (hp : s.seq.phase = .idle) (hno : (valid && isRead) = false) :
    ∃ t, request valid isRead a s = .next t ∧ t.cfg = s.cfg ∧ t.rx = (idleTick s).rx ∧ t.tx = (idleTick s).tx ∧
      ∀ n, SeqRests s (idleTicks n t) := by
  obtain ⟨t, hnext, hcfg, hrx, htx, rfl⟩ := request_run valid isRead a hrst
  exact ⟨_, hnext, hcfg, hrx, htx, idleTicks_seqRests hp
    (runTick_seqRests (u := s.withPorts (s.ports.withRequest valid isRead a)) hp hrst hno rfl rfl)⟩

/-- Settles O44: a write request does not qualify (`request_seqRests`). -/
theorem writeRequestIsNeverAcknowledged : Obligations.WriteRequestIsNeverAcknowledged := by
  intro a s hgood hrst hp
  obtain ⟨-, -, hinv⟩ := hgood
  obtain ⟨t, hnext, hcfg, hrx, htx, hrests⟩ := request_seqRests (valid := true) (isRead := false) a hrst hp rfl
  refine ⟨t, hnext, hcfg, hrx, htx, fun n => ⟨(hrests n).seq, ?_, (hrests n).outValid⟩⟩
  rw [(hrests n).seq]
  exact ack_eq_false hinv (by simp [hp])

/-- Settles O45: without `req_valid` no request qualifies (`request_seqRests`). -/
theorem noRequestIdlesIndefinitely : Obligations.NoRequestIdlesIndefinitely := by
  intro r a s _ hrst hp
  obtain ⟨t, hnext, hcfg, hrx, htx, hrests⟩ := request_seqRests (valid := false) (isRead := r) a hrst hp rfl
  exact ⟨t, hnext, hcfg, hrx, htx, fun n => ⟨(hrests n).seq, by rw [(hrests n).peer]⟩⟩

/-! ### The bytes of flash -/

@[simp] theorem memRead_length (a n : Nat) : (memRead a n).length = n := by simp [memRead]

/-- One byte more is the byte behind the last. -/
theorem memRead_succ (a n : Nat) : memRead a (n + 1) = memRead a n ++ [Config.flashByte (a + n)] := by
  simp [memRead, List.range_succ]

theorem memRead_getElem {a n i : Nat} (h : i < (memRead a n).length) : (memRead a n)[i] = Config.flashByte (a + i) := by
  simp [memRead]

/-- The bytes owed, the answered one gone and the next offer's added, are again those from the input counter to the offer
counter. -/
theorem memRead_drop_append (a : Nat) {i g o : Nat} (took : Bool) (h : i + g ≤ o) :
    ((memRead a o).drop i).drop g ++ (if took then [Config.flashByte (a + o)] else []) =
      (memRead a (o + took.toNat)).drop (i + g) := by
  rw [List.drop_drop]
  cases took with
  | false => simp
  | true => simp [memRead_succ, List.drop_append_of_le_length, h]

/-- The oldest byte owed is the one the Sequencer stores next. -/
theorem memRead_drop_head? (a i o : Nat) :
    ((memRead a o).drop i).head? = if i < o then some (Config.flashByte (a + i)) else none := by
  rw [List.head?_drop]
  split
  case isTrue h => rw [List.getElem?_eq_getElem (by simpa using h), memRead_getElem]
  case isFalse h => exact List.getElem?_eq_none (by simpa using h)

/-- A byte of flash stored behind the bytes before it. -/
theorem take_set_memRead {l : List Byte} {a i : Nat} (hi : i < l.length) (h : l.take i = memRead a i) :
    (l.set i (Config.flashByte (a + i))).take (i + 1) = memRead a (i + 1) := by
  rw [memRead_succ, ← h, List.take_succ_eq_append_getElem (by simpa using hi), List.take_set_of_le (Nat.le_refl i),
    List.getElem_set_self]

/-- Byte `j` of a word is its digit `j` to base 256 (20_memory.md rule R41). -/
theorem wordOfBytes_digit {l : List Byte} {j : Nat} (hj : j < l.length) :
    wordOfBytes l / 256 ^ j % 256 = l[j].toNat := by
  induction l generalizing j with
  | nil => cases hj
  | cons b bs ih =>
    have hb := b.isLt
    cases j with
    | zero => simp [wordOfBytes]; omega
    | succ j =>
      have hshift : wordOfBytes (b :: bs) / 256 = wordOfBytes bs := by rw [wordOfBytes]; omega
      rw [pow_succ', ← Nat.div_div_eq_div_mul, hshift]
      exact ih (by simpa using hj)

/-! ### A read in flight (44_qspi_sequencer.md rules R164, R166) -/

section InFlight

variable {a : FlashAddr} {s : State} {p : Ports} (op : BusOp)

theorem inStep_of_idle (hp : s.seq.phase = .idle) (h : s.peer.sent = [] ∧ s.peer.served = 0 ∧ s.peer.owed = []) :
    InStep a s := by simpa [InStep, hp] using h

theorem inStep_of_sendAddress (hp : s.seq.phase = .sendAddress)
    (h : s.peer.sent = (commandBytes a).take (3 - s.seq.aIdx.toNat) ∧ s.peer.served = 0 ∧ s.peer.owed = []) :
    InStep a s := by simpa [InStep, hp] using h

theorem inStep_of_receiveData (hp : s.seq.phase = .receiveData)
    (h : s.peer.sent = commandBytes a ∧ s.peer.served = s.seq.oCnt ∧ s.seq.iCnt ≤ s.seq.oCnt ∧
      s.peer.owed = (memRead a.toNat s.seq.oCnt).drop s.seq.iCnt ∧
      s.seq.result.take s.seq.iCnt = memRead a.toNat s.seq.iCnt) :
    InStep a s := by simpa [InStep, hp] using h

theorem inStep_of_deselect (hp : s.seq.phase = .deselect)
    (h : s.peer.owed = [] ∧ s.seq.result = memRead a.toNat s.cfg.W) : InStep a s := by simpa [InStep, hp] using h


/-- In `IDLE` the command byte taken is the first of the command. -/
theorem runTick_inStep_idle (hp : s.seq.phase = .idle) (h : InStep a s) : InStep a (runTick op p s) := by
  obtain ⟨hpeer, -⟩ := h
  obtain ⟨hsent, hserved, howed⟩ := hpeer hp
  have hgave : inXfer p s.peer s.seq = none := inXfer_of_not_receive (by simp [hp])
  rcases outXfer_cases s.cfg p s.seq with hx | hx
  · apply inStep_of_idle
    · rw [runTick_seq, hx, seqStep_idle _ _ hp]; exact hp
    · rw [runTick_peer, hx, hgave]; exact ⟨hsent, hserved, howed⟩
  · apply inStep_of_sendAddress
    · rw [runTick_seq, hx, seqStep_idle _ _ hp]; rfl
    · rw [runTick_peer, runTick_seq, hx, hgave, (offer_idle s.cfg p hp).2, peerStep_txSingle, seqStep_idle _ _ hp, hsent]
      exact ⟨rfl, hserved, howed⟩

/-- The address bytes sent so far, and the next one. -/
theorem commandBytes_take_succ (a : FlashAddr) {k : Nat} (hk : k ≤ 2) :
    (commandBytes a).take (3 - k) ++ [addressByte a k] = (commandBytes a).take (4 - k) := by
  interval_cases k <;> rfl

/-- In `SEND_ADDRESS` each byte taken is the next of the command. -/
theorem runTick_inStep_sendAddress (hp : s.seq.phase = .sendAddress) (hinv : SeqInv s.cfg s.seq)
    (haddr : p.reqAddress = a) (h : InStep a s) : InStep a (runTick op p s) := by
  obtain ⟨-, hpeer, -⟩ := h
  obtain ⟨hsent, hserved, howed⟩ := hpeer hp
  obtain ⟨hidx, -, hcnt, -⟩ := hinv
  obtain ⟨ho, hi⟩ := hcnt (by simp [hp])
  have hgave : inXfer p s.peer s.seq = none := inXfer_of_not_receive (by simp [hp])
  have hnext := commandBytes_take_succ a hidx
  rcases outXfer_cases s.cfg p s.seq with hx | hx
  · apply inStep_of_sendAddress
    · rw [runTick_seq, hx, seqStep_sendAddress _ _ hp]; exact hp
    · rw [runTick_peer, runTick_seq, hx, hgave, seqStep_sendAddress _ _ hp]; exact ⟨hsent, hserved, howed⟩
  · have hpeer' : (runTick op p s).peer = { s.peer with
        taken := { mode := .txSingle, payload := addressByte a s.seq.aIdx.toNat } :: s.peer.taken
        sent := (commandBytes a).take (4 - s.seq.aIdx.toNat) } := by
      rw [runTick_peer, hx, hgave, (offer_sendAddress s.cfg p hp).2, peerStep_txSingle, haddr, hsent, hnext]
    have hseq' := seqStep_sendAddress (P := s.cfg) true none hp
    rw [if_pos rfl] at hseq'
    by_cases hlast : s.seq.aIdx = 0
    · rw [if_neg (not_not.2 hlast)] at hseq'
      apply inStep_of_receiveData
      · rw [runTick_seq, hx, hgave, Option.isSome_some, hseq']
      · rw [hpeer', runTick_seq, hx, hgave, Option.isSome_some, hseq']
        simp [hlast, hserved, howed, ho, hi, commandBytes, memRead]
    · rw [if_pos hlast] at hseq'
      have hpos := toNat_pos_of_ne_zero hlast
      have hcount : 3 - (s.seq.aIdx - 1).toNat = 4 - s.seq.aIdx.toNat := by rw [toNat_sub_one hlast]; omega
      apply inStep_of_sendAddress
      · rw [runTick_seq, hx, hgave, Option.isSome_some, hseq']; exact hp
      · rw [hpeer', runTick_seq, hx, hgave, Option.isSome_some, hseq', hcount]
        exact ⟨rfl, hserved, howed⟩

/-- A byte that comes from the peer in `RECEIVE_DATA` is the next one of flash, and an offer has been taken for it. -/
theorem inOffer_inStep {b : Byte} (hp : s.seq.phase = .receiveData) (hfrom : p.inFromPeer = true) (h : InStep a s)
    (hb : inOffer p s.peer = some b) : s.seq.iCnt < s.seq.oCnt ∧ b = Config.flashByte (a.toNat + s.seq.iCnt) := by
  obtain ⟨-, -, hpeer, -⟩ := h
  obtain ⟨-, -, -, howed, -⟩ := hpeer hp
  rw [inOffer, hfrom, if_pos rfl, howed, memRead_drop_head?] at hb
  split at hb
  · split at hb
    case isTrue hlt => exact ⟨hlt, (Option.some.inj hb).symm⟩
    case isFalse => cases hb
  · cases hb

/-- What the peer is left with after a tick in `RECEIVE_DATA`: the bytes of flash from the input counter to the offer
counter, as both stand after the transfers of the tick. -/
theorem peerStep_inStep {gave : Option Byte} (hp : s.seq.phase = .receiveData) (h : InStep a s)
    (hgave : s.seq.iCnt + gave.isSome.toNat ≤ s.seq.oCnt) :
    let took := outXfer s.cfg p s.seq
    let r := peerStep took gave s.peer
    r.sent = commandBytes a ∧ r.served = s.seq.oCnt + took.isSome.toNat ∧
    r.owed = (memRead a.toNat (s.seq.oCnt + took.isSome.toNat)).drop (s.seq.iCnt + gave.isSome.toNat) := by
  intro took r
  obtain ⟨-, -, hpeer, -⟩ := h
  obtain ⟨hsent, hserved, -, howed, -⟩ := hpeer hp
  have hmode : ∀ it ∈ took, it.mode = .rxData := fun it hit => by
    rw [(outXfer_eq_some hit).1, (offer_receiveData s.cfg p hp).2]
  obtain ⟨hsent', hserved', howed'⟩ := peerStep_rxData s.peer gave hmode
  refine ⟨hsent'.trans hsent, by rw [hserved', hserved], ?_⟩
  rw [howed', howed, hsent, hserved, commandAddress_commandBytes, memRead_drop_append _ _ hgave]

/-- In `RECEIVE_DATA` the bytes stored and the bytes owed are those of flash, in order; the `W`-th settles the last. -/
theorem runTick_inStep_receiveData (hp : s.seq.phase = .receiveData) (hinv : SeqInv s.cfg s.seq)
    (hfrom : p.inFromPeer = true) (h : InStep a s) : InStep a (runTick op p s) := by
  have hW : s.cfg.W = s.cfg.lastByte + 1 := rfl
  have ⟨_, _, hpeer, _⟩ := h
  obtain ⟨-, -, hle, -, hres⟩ := hpeer hp
  obtain ⟨-, -, -, ho, hi, -, hlen⟩ := hinv
  have hgave := inXfer_of_receive (p := p) (r := s.peer) hp
  cases hb : inOffer p s.peer with
  | none =>
    obtain ⟨hsent, hserved, howed⟩ := peerStep_inStep (p := p) (gave := none) hp h hle
    apply inStep_of_receiveData
    · rw [runTick_seq, hgave, hb, seqStep_receive_none _ hp]; exact hp
    · rw [runTick_peer, runTick_seq, hgave, hb, seqStep_receive_none _ hp]
      exact ⟨hsent, hserved, Nat.le_add_right_of_le hle, howed, hres⟩
  | some b =>
    obtain ⟨hlt, rfl⟩ := inOffer_inStep hp hfrom h hb
    obtain ⟨hsent, hserved, howed⟩ :=
      peerStep_inStep (p := p) (gave := some (Config.flashByte (a.toNat + s.seq.iCnt))) hp h hlt
    have hstored := take_set_memRead (hlen ▸ hi) hres
    by_cases hlast : s.seq.iCnt = s.cfg.lastByte
    · have hall : s.seq.iCnt + 1 = s.cfg.W := by omega
      have hfull : s.seq.oCnt = s.cfg.W := by omega
      have htook : (outXfer s.cfg p s.seq).isSome = false := by
        simpa using mt (fun hx => oCnt_ne_of_outXfer hx hp) (not_not.2 hfull)
      apply inStep_of_deselect
      · rw [runTick_seq, hgave, hb, seqStep_receive_last _ _ hp hlast]
      · rw [runTick_peer, runTick_seq, runTick_cfg, hgave, hb, seqStep_receive_last _ _ hp hlast, howed, htook, hfull]
        refine ⟨List.drop_eq_nil_of_le (by simp [hall]), ?_⟩
        rw [hall, List.take_of_length_le (by simp [hlen])] at hstored
        exact hstored
    · apply inStep_of_receiveData
      · rw [runTick_seq, hgave, hb, seqStep_receive_byte _ _ hp hlast]; exact hp
      · rw [runTick_peer, runTick_seq, hgave, hb, seqStep_receive_byte _ _ hp hlast]
        exact ⟨hsent, hserved, Nat.le_add_right_of_le hlt, howed, hstored⟩

/-- In `DESELECT` the item taken ends the peer's command. -/
theorem runTick_inStep_deselect (hp : s.seq.phase = .deselect) (h : InStep a s) : InStep a (runTick op p s) := by
  obtain ⟨-, -, -, hpeer⟩ := h
  obtain ⟨howed, hres⟩ := hpeer hp
  have hgave : inXfer p s.peer s.seq = none := inXfer_of_not_receive (by simp [hp])
  rcases outXfer_cases s.cfg p s.seq with hx | hx
  · apply inStep_of_deselect
    · rw [runTick_seq, hx, seqStep_deselect _ _ hp]; exact hp
    · rw [runTick_peer, runTick_seq, hx, hgave, seqStep_deselect _ _ hp]; exact ⟨howed, hres⟩
  · apply inStep_of_idle
    · rw [runTick_seq, hx, seqStep_deselect _ _ hp]; rfl
    · rw [runTick_peer, hx, hgave, (offer_deselect s.cfg p hp).2, peerStep_deselect]; exact ⟨rfl, rfl, howed⟩

end InFlight

/-- Settles O47: one lemma a phase, `runTick_inStep_idle` to `runTick_inStep_deselect`. -/
theorem readInFlightStaysInStep : Obligations.ReadInFlightStaysInStep := by
  intro a op p s hgood hkeep h
  obtain ⟨-, -, hinv⟩ := hgood
  obtain ⟨hrst, haddr, hfrom⟩ := hkeep
  rw [tick_run op s hrst]
  cases hp : s.seq.phase with
  | idle => exact runTick_inStep_idle op hp h
  | sendAddress => exact runTick_inStep_sendAddress op hp hinv haddr h
  | receiveData => exact runTick_inStep_receiveData op hp hinv hfrom h
  | deselect => exact runTick_inStep_deselect op hp h

/-- With `ack` set the result is the `W` bytes of flash (44_qspi_sequencer.md rule R164). -/
theorem result_of_ack {a : FlashAddr} {s : State} (hgood : GoodState s) (h : InStep a s) (hack : s.seq.ack = true) :
    s.seq.result = memRead a.toNat s.cfg.W := by
  obtain ⟨-, -, -, -, -, -, -, hphase, -⟩ := hgood
  obtain ⟨-, -, -, hpeer⟩ := h
  exact (hpeer (hphase hack)).2

/-- Settles O48: the tick keeps the peer in step (O47), so the result is that of `result_of_ack`. -/
theorem ackDeliversTheFlashBytes : Obligations.AckDeliversTheFlashBytes := by
  intro a op p s hgood hkeep h hack
  have hres := result_of_ack (tick_keeps_goodState op p s hgood) (readInFlightStaysInStep a op p s hgood hkeep h) hack
  rw [tick_cfg] at hres
  refine ⟨hres, fun j hj => ?_⟩
  have hbyte : j < (memRead a.toNat s.cfg.W).length := by rwa [memRead_length]
  rw [hres, wordOfBytes_digit hbyte, memRead_getElem hbyte]

/-! ### A read with a prompt peer (44_qspi_sequencer.md rule R168) -/

/-- A read of `a` is in flight, with a peer that is always ready and gives each byte as soon as it owes it. -/
structure PromptRead (a : FlashAddr) (u : State) : Prop where
  good     : GoodState u
  inStep   : InStep a u
  rst      : u.ports.rst = false
  address  : u.ports.reqAddress = a
  outReady : u.ports.outReady = true
  inValid  : u.ports.inValid = true
  fromPeer : u.ports.inFromPeer = true

section Prompt

variable {a : FlashAddr} {u : State} {l : List LaneItem}

/-- The client and the peer are as they were one tick later. -/
theorem promptRead_idleTick (h : PromptRead a u) : PromptRead a (idleTick u) := by
  have hports : (idleTick u).ports = dropOnAck u.seq.ack u.ports := by rw [idleTick_run h.rst]; rfl
  exact
    { good     := tick_keeps_goodState noOp u.ports u h.good
      inStep   := readInFlightStaysInStep a noOp u.ports u h.good ⟨h.rst, h.address, h.fromPeer⟩ h.inStep
      rst      := by rw [hports]; exact h.rst
      address  := by rw [hports]; exact h.address
      outReady := by rw [hports]; exact h.outReady
      inValid  := by rw [hports]; exact h.inValid
      fromPeer := by rw [hports]; exact h.fromPeer }

/-- The Sequencer offers address byte `k`, and the lane has taken `l`. -/
structure Addressing (a : FlashAddr) (k : BitVec 2) (l : List LaneItem) (u : State) : Prop extends PromptRead a u where
  phase : u.seq.phase = .sendAddress
  aIdx  : u.seq.aIdx = k
  taken : u.peer.taken = l

/-- The lane has taken `l` and then `k` receive offers, of which the last is not yet answered. -/
structure Receiving (a : FlashAddr) (k : Nat) (l : List LaneItem) (u : State) : Prop extends PromptRead a u where
  phase : u.seq.phase = .receiveData
  oCnt  : u.seq.oCnt = k
  iCnt  : u.seq.iCnt = k - 1
  taken : u.peer.taken = List.replicate k { mode := .rxData, payload := Config.dummyPayload } ++ l

/-- The tick of an address byte. -/
theorem addressing_tick {k : BitVec 2} (h : Addressing a k l u) :
    (idleTick u).seq = (if u.seq.aIdx ≠ 0 then { u.seq with aIdx := u.seq.aIdx - 1 }
      else { u.seq with phase := .receiveData }) ∧
    (idleTick u).peer.taken = { mode := .txSingle, payload := addressByte a k.toNat } :: l := by
  obtain ⟨hvalid, hitem⟩ := offer_sendAddress u.cfg u.ports h.phase
  have hxfer := outXfer_of_ready hvalid h.outReady
  rw [hitem, h.address, h.aIdx] at hxfer
  rw [idleTick_run h.rst]
  refine ⟨?_, by rw [runTick_peer, hxfer, peerStep_taken, h.taken]; rfl⟩
  rw [runTick_seq, hxfer, seqStep_sendAddress _ _ h.phase]; rfl

/-- An address byte before the last moves on to the next. -/
theorem addressing_idleTick {k : BitVec 2} (hk : k ≠ 0) (h : Addressing a k l u) :
    Addressing a (k - 1) ({ mode := .txSingle, payload := addressByte a k.toNat } :: l) (idleTick u) := by
  obtain ⟨hseq, htaken⟩ := addressing_tick h
  rw [h.aIdx, if_pos hk] at hseq
  exact ⟨promptRead_idleTick h.toPromptRead, by rw [hseq]; exact h.phase, by rw [hseq], htaken⟩

/-- The last address byte starts `RECEIVE_DATA`. -/
theorem receiving_of_addressing_zero (h : Addressing a 0 l u) :
    Receiving a 0 ({ mode := .txSingle, payload := addressByte a 0 } :: l) (idleTick u) := by
  obtain ⟨hseq, htaken⟩ := addressing_tick h
  rw [if_neg (not_not.2 h.aIdx)] at hseq
  obtain ⟨-, -, -, -, hcnt, -⟩ := h.good
  obtain ⟨ho, hi⟩ := hcnt (by simp [h.phase])
  exact ⟨promptRead_idleTick h.toPromptRead, by rw [hseq], by rw [hseq]; exact ho, by rw [hseq]; exact hi, htaken⟩

/-- The byte on offer answers the last receive offer taken, if one was. -/
theorem inXfer_receiving {k : Nat} (h : Receiving a k l u) : inXfer u.ports u.peer u.seq =
    if 0 < k then some (Config.flashByte (a.toNat + (k - 1))) else none := by
  obtain ⟨-, -, hpeer, -⟩ := h.inStep
  obtain ⟨-, -, -, howed, -⟩ := hpeer h.phase
  rw [inXfer_of_receive h.phase, inOffer, h.inValid, h.fromPeer, if_pos rfl, if_pos rfl, howed, memRead_drop_head?,
    h.oCnt, h.iCnt]
  exact if_congr (by omega) rfl rfl

/-- With offers left, one is taken and the one before it answered. -/
theorem receiving_idleTick {k : Nat} (hk : k < u.cfg.W) (h : Receiving a k l u) : Receiving a (k + 1) l (idleTick u) := by
  obtain ⟨hvalid, hitem⟩ := offer_receiveData u.cfg u.ports h.phase
  have hxfer := outXfer_of_ready (hvalid.trans (by simp [h.oCnt, hk.ne])) h.outReady
  rw [hitem] at hxfer
  have hseq : (idleTick u).seq.phase = .receiveData ∧ (idleTick u).seq.oCnt = k + 1 ∧ (idleTick u).seq.iCnt = k := by
    rw [idleTick_run h.rst, runTick_seq, hxfer, inXfer_receiving h]
    by_cases hpos : 0 < k
    · have hi : u.seq.iCnt ≠ u.cfg.lastByte := by
        have hW : u.cfg.W = u.cfg.lastByte + 1 := rfl
        rw [h.iCnt]; omega
      rw [if_pos hpos, seqStep_receive_byte _ _ h.phase hi]
      exact ⟨h.phase, by simp [h.oCnt], by simp only [h.iCnt]; omega⟩
    · rw [if_neg hpos, seqStep_receive_none _ h.phase]
      exact ⟨h.phase, by simp [h.oCnt], by simp only [h.iCnt]; omega⟩
  obtain ⟨hphase, ho, hi⟩ := hseq
  refine ⟨promptRead_idleTick h.toPromptRead, hphase, ho, hi, ?_⟩
  rw [idleTick_run h.rst, runTick_peer, hxfer, peerStep_taken, h.taken]; rfl

/-- One offer a tick. -/
theorem receiving_idleTicks (h : Receiving a 0 l u) {k : Nat} (hk : k ≤ u.cfg.W) :
    Receiving a k l (idleTicks k u) := by
  induction k with
  | zero => exact h
  | succ k ih =>
    rw [idleTicks_last]
    exact receiving_idleTick (by rw [idleTicks_cfg]; exact hk) (ih (Nat.le_of_succ_le hk))

/-- All `W` offers taken, the byte that answers the last one completes the read. -/
theorem receiving_complete (h : Receiving a u.cfg.W l u) :
    (idleTick u).seq.phase = .deselect ∧ (idleTick u).seq.ack = true ∧ (idleTick u).peer.taken = u.peer.taken := by
  obtain ⟨hvalid, -⟩ := offer_receiveData u.cfg u.ports h.phase
  rw [h.oCnt, bne_self_eq_false] at hvalid
  have hxfer := outXfer_of_not_offered hvalid
  have hgave := (inXfer_receiving h).trans (if_pos (Nat.succ_pos _))
  rw [idleTick_run h.rst, runTick_seq, runTick_peer, hxfer, hgave, peerStep_taken,
    seqStep_receive_last _ _ h.phase (h.iCnt.trans (W_sub_one _))]
  exact ⟨rfl, rfl, rfl⟩

/-- The deselect item ends the transaction, and the client that sees `ack` drops its request. -/
theorem deselect_idleTick (h : PromptRead a u) (hp : u.seq.phase = .deselect) (hack : u.seq.ack = true) :
    (idleTick u).seq.phase = .idle ∧ (idleTick u).seq.ack = false ∧
    (idleTick u).peer.taken = { mode := .deselect, payload := Config.dummyPayload } :: u.peer.taken ∧
    (idleTick u).ports.reqValid = false := by
  obtain ⟨hvalid, hitem⟩ := offer_deselect u.cfg u.ports hp
  have hxfer := outXfer_of_ready hvalid h.outReady
  rw [hitem] at hxfer
  rw [idleTick_run h.rst, runTick_seq, runTick_peer, runTick_ports, hxfer, seqStep_deselect _ _ hp, peerStep_taken]
  exact ⟨rfl, rfl, rfl, by simp [hack]⟩

/-- The read request is taken in its own tick. -/
theorem addressing_of_request {s : State} (hgood : GoodState s) (hstep : InStep a s) (hp : s.seq.phase = .idle)
    (hrst : s.ports.rst = false) (hready : s.ports.outReady = true) (hvalid : s.ports.inValid = true)
    (hfrom : s.ports.inFromPeer = true) :
    ∃ t, exec (.reqRead a) s = .next t ∧ t.cfg = s.cfg ∧
      Addressing a 2 ({ mode := .txSingle, payload := Config.cmdRead } :: s.peer.taken) t := by
  obtain ⟨t, hnext, hcfg, -, -, rfl⟩ := request_run true true a hrst
  have hprompt : PromptRead a (s.withPorts (s.ports.withRequest true true a)) :=
    ⟨hgood, hstep, hrst, rfl, hready, hvalid, hfrom⟩
  have htick := promptRead_idleTick hprompt
  rw [idleTick_run hprompt.rst] at htick
  obtain ⟨hqual, hitem⟩ := offer_idle s.cfg (s.ports.withRequest true true a) hp
  have hxfer := outXfer_of_ready (by exact hqual) (p := s.ports.withRequest true true a) hready
  rw [hitem] at hxfer
  have hseq := seqStep_idle (P := s.cfg) true (inXfer (s.ports.withRequest true true a) s.peer s.seq) hp
  refine ⟨_, hnext, hcfg, htick, ?_, ?_, ?_⟩
  · rw [runTick_seq, withPorts_cfg, withPorts_seq, hxfer]; exact congrArg Sequencer.phase hseq
  · rw [runTick_seq, withPorts_cfg, withPorts_seq, hxfer]; exact congrArg Sequencer.aIdx hseq
  · rw [runTick_peer, withPorts_cfg, withPorts_seq, hxfer, peerStep_taken]; rfl

/-- The three address bytes and `k` receive offers, an item a tick. -/
theorem receiving_of_addressing (h : Addressing a 2 l u) {k : Nat} (hk : k ≤ u.cfg.W) :
    Receiving a k ({ mode := .txSingle, payload := addressByte a 0 } ::
      { mode := .txSingle, payload := addressByte a 1 } :: { mode := .txSingle, payload := addressByte a 2 } :: l)
      (idleTicks (3 + k) u) := by
  have h1 := addressing_idleTick (by decide) h
  have h0 := addressing_idleTick (by decide) h1
  have hdata := receiving_of_addressing_zero h0
  rw [idleTicks_add]
  exact receiving_idleTicks hdata (by simpa using hk)

/-- There is no `ack` before the last byte. -/
theorem ack_of_addressing (h : Addressing a 2 l u) {n : Nat} (hn : n < 4 + u.cfg.W) :
    (idleTicks n u).seq.ack = false := by
  have hgood : GoodState (idleTicks n u) :=
    idleTicks_keeps (fun v => tick_keeps_goodState noOp v.ports v) n u h.good
  obtain ⟨-, -, hinv⟩ := hgood
  have h1 := addressing_idleTick (by decide) h
  have h0 := addressing_idleTick (by decide) h1
  refine ack_eq_false hinv ?_
  match n, hn with
  | 0, _ => simp [h.phase]
  | 1, _ => simp [idleTicks, h1.phase]
  | 2, _ => simp [idleTicks, h0.phase]
  | k + 3, hn =>
    have hdata := receiving_of_addressing h (k := k) (by omega)
    rw [Nat.add_comm, hdata.phase]
    simp

end Prompt

/-- A transaction, newest item first. -/
theorem transactionItems_reverse (P : Params) (a : FlashAddr) : (transactionItems P a).reverse =
    { mode := .deselect, payload := Config.dummyPayload } ::
      (List.replicate P.W { mode := .rxData, payload := Config.dummyPayload } ++
        [{ mode := .txSingle, payload := addressByte a 0 }, { mode := .txSingle, payload := addressByte a 1 },
         { mode := .txSingle, payload := addressByte a 2 }, { mode := .txSingle, payload := Config.cmdRead }]) := by
  simp [transactionItems, commandBytes]

/-- Settles O49: the address bytes and the offers (`receiving_of_addressing`), the last byte (`receiving_complete`) and
the deselect item (`deselect_idleTick`), with no `ack` before the last byte (`ack_of_addressing`). -/
theorem readCompletesWithAPromptPeer : Obligations.ReadCompletesWithAPromptPeer := by
  intro a s hgood hstep hp hrst hready hvalid hfrom
  obtain ⟨t, hnext, hcfg, hread⟩ := addressing_of_request hgood hstep hp hrst hready hvalid hfrom
  have hdata := receiving_of_addressing hread (Nat.le_refl _)
  have hnoAck := fun n => ack_of_addressing hread (n := n)
  rw [hcfg] at hdata hnoAck
  obtain ⟨hphase, hack, htaken⟩ :=
    receiving_complete (u := idleTicks (3 + s.cfg.W) t) (by rw [idleTicks_cfg, hcfg]; exact hdata)
  have hprompt := promptRead_idleTick hdata.toPromptRead
  obtain ⟨hend, hackEnd, htakenEnd, hreq⟩ := deselect_idleTick hprompt hphase hack
  have hres := result_of_ack hprompt.good hprompt.inStep hack
  rw [idleTick_cfg, idleTicks_cfg, hcfg] at hres
  have h4 : idleTicks (4 + s.cfg.W) t = idleTick (idleTicks (3 + s.cfg.W) t) := by
    rw [← idleTicks_last, Nat.add_right_comm]
  have h5 : idleTicks (5 + s.cfg.W) t = idleTick (idleTick (idleTicks (3 + s.cfg.W) t)) := by
    rw [← h4, ← idleTicks_last, Nat.add_right_comm]
  refine ⟨t, hnext, hnoAck, ?_⟩
  rw [h4, h5]
  refine ⟨hack, hres, hend, hackEnd, ?_, hreq⟩
  rw [htakenEnd, htaken, hdata.taken, transactionItems_reverse]
  simp

end Sys2Proof.Machine

/-! SUPPORT. The phase after one tick of each machine, said once a phase, and the proof of the statement of
45_arithmetic_and_control.md. -/

namespace Sys2Proof.Machine

/-! ### The receiver's phase -/

section RxPhase

variable {par : Parity} {r : RxDir} (c : RxCtl) (level : Bool)

/-- The phase after a tick is the engine's; a direction that does not run is sent to `IDLE`. -/
theorem rxStep_phase :
    (rxStep par c level r).phase = if rxRuns c r then (rxEngine par level r).phase else .idle := by
  cases hrun : rxRuns c r with
  | true =>
    obtain ⟨-, -, -, -, -, -, -, hop, -⟩ := rxApplyOp_fields c (rxEvent par c level r) r.ready
      (rxApplyEvent (rxEvent par c level r) (rxEngine par level r))
    obtain ⟨-, -, hev, -⟩ := rxApplyEvent_frame (rxEvent par c level r) (rxEngine par level r)
    rw [rxStep_run level hrun, hop, hev, if_pos rfl]
  | false =>
    obtain ⟨-, -, -, -, -, -, -, hop, -⟩ := rxApplyOp_fields c .none r.ready (rxHold r)
    obtain ⟨-, hheld⟩ := rxStep_held par c level r hrun
    rw [hheld, hop, rxHold_phase, if_neg Bool.false_ne_true]

/-- A start bit seen by a running engine starts a frame (41_uart_rx.md rule R93). -/
theorem rxStep_phase_of_idle (h : r.phase = .idle) : (rxStep par c level r).phase =
    if r.enable = true ∧ c.enable ≠ some false ∧ level = false then .busy else .idle := by
  have hengine : (rxEngine par level r).phase = if level = false then .busy else .idle := by
    cases level <;> simp [rxEngine, h]
  rw [rxStep_phase, hengine, ← ite_and]
  exact if_congr (by rw [rxRuns_iff, and_assoc]) rfl rfl

/-- The last sample or a disabling write ends a frame (41_uart_rx.md rules R95, R103). -/
theorem rxStep_phase_of_busy (hen : r.enable = true) (h : r.phase = .busy) : (rxStep par c level r).phase =
    if c.enable = some false ∨ (r.timer = 0 ∧ r.bitno = 0) then .idle else .busy := by
  have hengine : (rxEngine par level r).phase = if r.timer = 0 ∧ r.bitno = 0 then .idle else .busy := by
    by_cases ht : r.timer = 0#24 <;> by_cases hb : r.bitno = 0#4 <;> simp [rxEngine, h, ht, hb]
  rw [rxStep_phase, hengine]
  by_cases hoff : c.enable = some false <;> simp [rxRuns, hen, hoff]

/-- A receiver inside a frame is enabled (10_state.md rule R24). -/
theorem rx_enable_of_busy (hinv : RxInv par r) (h : r.phase = .busy) : r.enable = true := by
  obtain ⟨hdis, -⟩ := hinv
  by_contra hoff
  obtain ⟨-, hidle, -⟩ := hdis (by simpa using hoff)
  cases h.symm.trans hidle

end RxPhase

/-! ### The transmitter's phase -/

section TxPhase

variable {par : Parity} {t : TxDir} (c : TxCtl)

/-- The phase after a tick is the engine's; a direction that does not run is sent to `IDLE`. -/
theorem txStep_phase :
    (txStep par c t).phase = if txRuns c t then (txEngine par c.byte t).phase else .idle := by
  obtain ⟨-, -, -, hop, -⟩ := txApplyOp_fields c (if txRuns c t then txEngine par c.byte t else txHold t)
  rw [txStep, hop, apply_ite TxDir.phase]
  rfl

/-- A byte presented to a running engine starts a frame (42_uart_tx.md rule R112). -/
theorem txStep_phase_of_idle (h : t.phase = .idle) : (txStep par c t).phase =
    if t.enable = true ∧ c.enable ≠ some false ∧ c.byte ≠ none then .busy else .idle := by
  have hengine : (txEngine par c.byte t).phase = if c.byte ≠ none then .busy else .idle := by
    cases hb : c.byte <;> simp [txEngine, txAccept, h]
  rw [txStep_phase, hengine, ← ite_and]
  exact if_congr (by rw [txRuns_iff, and_assoc]) rfl rfl

/-- The end of the stop bit or a disabling write ends a frame (42_uart_tx.md rules R117, R119). -/
theorem txStep_phase_of_busy (hen : t.enable = true) (h : t.phase = .busy) : (txStep par c t).phase =
    if c.enable = some false ∨ (t.timer = 0 ∧ t.bitno = 0) then .idle else .busy := by
  have hengine : (txEngine par c.byte t).phase = if t.timer = 0 ∧ t.bitno = 0 then .idle else .busy := by
    by_cases ht : t.timer = 0#24 <;> by_cases hb : t.bitno = 0#4 <;> simp [txEngine, h, ht, hb]
  rw [txStep_phase, hengine]
  by_cases hoff : c.enable = some false <;> simp [txRuns, hen, hoff]

/-- A transmitter inside a frame is enabled (10_state.md rule R25). -/
theorem tx_enable_of_busy (hinv : TxInv par t) (h : t.phase = .busy) : t.enable = true := by
  obtain ⟨hdis, -⟩ := hinv
  by_contra hoff
  obtain ⟨hidle, -⟩ := hdis (by simpa using hoff)
  cases h.symm.trans hidle

end TxPhase

/-! ### The Sequencer's phase -/

section SeqPhase

variable {P : Params} {q : Sequencer} (took : Bool) (gave : Option Byte)

/-- The command byte taken starts a transaction (44_qspi_sequencer.md rule R151). -/
theorem seqStep_phase_of_idle (h : q.phase = .idle) :
    (seqStep P took gave q).phase = if took then .sendAddress else .idle := by
  rw [seqStep_idle _ _ h, apply_ite Sequencer.phase, h]

/-- The last address byte taken starts `RECEIVE_DATA` (44_qspi_sequencer.md rule R154). -/
theorem seqStep_phase_of_sendAddress (h : q.phase = .sendAddress) :
    (seqStep P took gave q).phase = if took = true ∧ q.aIdx = 0 then .receiveData else .sendAddress := by
  rw [seqStep_sendAddress _ _ h]
  cases took <;> by_cases ha : q.aIdx = 0#2 <;> simp [h, ha]

/-- The `W`-th byte completes, whatever the offer of its tick (44_qspi_sequencer.md rule R159). -/
theorem seqStep_phase_of_receiveData (h : q.phase = .receiveData) : (seqStep P took gave q).phase =
    if gave.isSome = true ∧ q.iCnt = P.W - 1 then .deselect else .receiveData := by
  rw [W_sub_one]
  cases gave with
  | none => rw [seqStep_receive_none _ h]; simp [h]
  | some b =>
    by_cases hi : q.iCnt = P.lastByte
    · rw [seqStep_receive_last _ b h hi]; simp [hi]
    · rw [seqStep_receive_byte _ b h hi]; simp [h, hi]

/-- The deselect item taken ends the transaction (44_qspi_sequencer.md rule R161). -/
theorem seqStep_phase_of_deselect (h : q.phase = .deselect) :
    (seqStep P took gave q).phase = if took then .idle else .deselect := by
  rw [seqStep_deselect _ _ h, apply_ite Sequencer.phase, h]

end SeqPhase

/-- Settles O37: each machine's phase moves by its own rule (`seqStep_phase_of_idle` and its siblings), with the item on
offer in the phase (`offer_idle` and its siblings) for the Sequencer, and a direction in a frame enabled by the
invariant (`rx_enable_of_busy`, `tx_enable_of_busy`). -/
theorem phaseTransitionsAreTheListedOnes : Obligations.PhaseTransitionsAreTheListedOnes := by
  intro op p s hgood
  obtain ⟨hrx, htx, -⟩ := hgood
  refine ⟨fun hrst => ?_, fun hrst => ?_⟩
  · rw [tick_reset op s hrst]; exact ⟨rfl, rfl, rfl⟩
  rw [tick_run op s hrst, runTick_seq, runTick_rx, runTick_tx]
  refine ⟨?_, ?_, ?_⟩
  · cases hp : s.seq.phase with
    | idle =>
      obtain ⟨hvalid, -⟩ := offer_idle s.cfg p hp
      rw [seqStep_phase_of_idle _ _ hp, outXfer_isSome, hvalid]
      exact if_congr (by rw [Bool.and_eq_true, qualifies_iff, and_assoc]) rfl rfl
    | sendAddress =>
      obtain ⟨hvalid, -⟩ := offer_sendAddress s.cfg p hp
      rw [seqStep_phase_of_sendAddress _ _ hp, outXfer_isSome, hvalid, Bool.true_and]
    | receiveData => rw [seqStep_phase_of_receiveData _ _ hp, inXfer_of_receive hp]
    | deselect =>
      obtain ⟨hvalid, -⟩ := offer_deselect s.cfg p hp
      rw [seqStep_phase_of_deselect _ _ hp, outXfer_isSome, hvalid, Bool.true_and]
  · cases hp : s.rx.phase with
    | idle => exact rxStep_phase_of_idle _ _ hp
    | busy => exact rxStep_phase_of_busy _ _ (rx_enable_of_busy hrx hp) hp
  · cases hp : s.tx.phase with
    | idle => exact txStep_phase_of_idle _ hp
    | busy => exact txStep_phase_of_busy _ (tx_enable_of_busy htx hp) hp

end Sys2Proof.Machine

/-! The proof of the statement of 60_exceptions.md. -/

namespace Sys2Proof.Machine

/-- Settles O7 (60_exceptions.md rule R170): a line frame is a run of ticks (`exec_eq_driveLine`), every other operation
that is not refused is one tick (`exec_eq_tick`), and both answer the state they end in. -/
theorem everyOtherOperationAlwaysCompletes : Obligations.EveryOtherOperationAlwaysCompletes := by
  intro i s hused
  cases hl : isLineFrame i with
  | true =>
    obtain ⟨start, rest, hexec⟩ := exec_eq_driveLine hl s
    exact ⟨_, hexec⟩
  | false => exact ⟨_, exec_eq_tick hl hused s⟩

end Sys2Proof.Machine

/-! SUPPORT. What a reset tick leaves on the outputs and on the lanes, what may change a divisor or take `ready` away, what
a quiet state does in a tick; and the proofs of the statements of 70_reset_and_hazards.md. -/

namespace Sys2Proof.Machine

/-! ### A tick under reset (70_reset_and_hazards.md rule R191) -/

/-- A register read has a value to return. -/
theorem busOpOf_rdata_of_read {i : Instr} (h : isRegisterRead i = true) (s : State) :
    ∃ v, (busOpOf i s).rdata = some v := by
  cases i with
  | rdRxConfig | rdRxPhyConfig | rdRxStatus | rdRxData | rdTxConfig | rdTxPhyConfig | rdTxStatus | rdTxData =>
    exact ⟨_, rfl⟩
  | _ => cases h

/-- A line frame is no register read. -/
theorem isRegisterRead_of_lineFrame {i : Instr} (h : isLineFrame i = true) : isRegisterRead i = false := by
  cases i with
  | uartFrame8N1 _ | uartFrame8P1 _ _ => rfl
  | _ => cases h

/-- Under reset no level on the line makes the lane peer take an item. -/
theorem driveLine_taken_of_reset (d : Nat) (levels : List Bool) {s : State} (hrst : s.ports.rst = true) :
    (driveLine d levels s).peer.taken = s.peer.taken := by
  refine (driveLine_keeps (I := fun u => u.ports.rst = true ∧ u.peer.taken = s.peer.taken)
    (fun level u ⟨hu, htaken⟩ => ⟨(lineTick_rst u level).trans hu, ?_⟩) d levels s ⟨hrst, rfl⟩).2
  rw [lineTick, tick_reset _ _ (by exact hu), resetTick_peer]
  exact htaken

/-- An operation that takes a tick under reset ends with a reset tick; it has taken nothing from the lane, and a register
read has a value to lose. -/
theorem exec_ends_with_resetTick {i : Instr} {s : State} (hrst : s.ports.rst = true) (h : TakesATick i s) :
    ∃ op p u, exec i s = .next (resetTick op p u) ∧ (isRegisterRead i = true → ∃ v, op.rdata = some v) ∧
      (resetTick op p u).peer.taken = s.peer.taken := by
  obtain ⟨hused, hlasts⟩ := h
  cases hl : isLineFrame i with
  | false =>
    have hexec := exec_eq_tick hl hused s
    rw [tick_reset _ _ ((tickPorts_sameLevels i s).rst.trans hrst)] at hexec
    exact ⟨_, _, _, hexec, fun hread => busOpOf_rdata_of_read hread s, rfl⟩
  | true =>
    obtain ⟨b, rest, hexec⟩ := exec_eq_driveLine hl s
    have hd : s.rx.divisor.toNat ≠ 0 := (toNat_pos_of_ne_zero (hlasts hl)).ne'
    have htaken := driveLine_taken_of_reset s.rx.divisor.toNat (b :: rest) hrst
    obtain ⟨level, u, hdrive, -, hu⟩ := afterLineTick_driveLine hd b rest s
    rw [hdrive, lineTick, tick_reset _ _ (by exact hu.trans hrst)] at hexec htaken
    exact ⟨_, _, _, hexec, fun hread => by simp [isRegisterRead_of_lineFrame hl] at hread, htaken⟩

/-- Settles O10: the operation ends with a reset tick (`exec_ends_with_resetTick`), which returns 0 for every read and
drives no handshake. -/
theorem resetTickDrivesNothing : Obligations.ResetTickDrivesNothing := by
  intro i s hrst htakes
  obtain ⟨op, p, u, hexec, hread, htaken⟩ := exec_ends_with_resetTick hrst htakes
  refine ⟨_, hexec, fun hi => ?_, fun v hv => ?_, rfl, rfl, rfl, rfl, htaken⟩
  · obtain ⟨w, hw⟩ := hread hi
    rw [resetTick_rdata, hw]; rfl
  · rw [resetTick_rdata, Option.map_eq_some_iff] at hv
    obtain ⟨w, -, hzero⟩ := hv
    exact hzero.symm

/-! ### Right after reset (70_reset_and_hazards.md rule R192) -/

/-- A result word of zeros is the number 0. -/
theorem wordOfBytes_zeros (n : Nat) : wordOfBytes (List.replicate n 0) = 0 := by
  induction n with
  | zero => rfl
  | succ n ih => rw [List.replicate_succ, wordOfBytes, ih]; rfl

/-- With the reserved byte 0 a PhyConfig read returns the divisor. -/
theorem phyWord_zero (d : Divisor) : phyWord 0 d = d.setWidth 32 := by
  rw [phyWord_eq]
  simp

/-- Settles O11: each read returns the word of its fields, and those are in reset. -/
theorem readsRightAfterReset : Obligations.ReadsRightAfterReset := by
  intro P
  have hread (v : BusWord) (c : RxCtl) :
      ∃ t, present { rx := c, rdata := some v } (State.resetOf P) = .next t ∧ t.out.rdata = some v := by
    obtain ⟨t, hnext, -, hrdata, -⟩ := present_rx c (some v) (s := State.resetOf P) rfl
    exact ⟨t, hnext, hrdata⟩
  refine ⟨hread 0 {}, ?_, hread (rxStatusWord false false false) {}, hread 0 { consume := true }, hread 0 {}, ?_,
    hread 0 {}, hread 0 {}, rfl, rfl, rfl, wordOfBytes_zeros _⟩
  · rw [← phyWord_zero]; exact hread (phyWord 0 P.rxInitDivisor) {}
  · rw [← phyWord_zero]; exact hread (phyWord 0 P.txInitDivisor) {}

/-! ### What changes a divisor (70_reset_and_hazards.md rule R200) -/

/-- A divisor that only a PhyConfig write `phy` can replace, and only while its direction is not enabled, changes by such
a write in a disabled direction (43_uart_registers.md rules R129, R138). -/
theorem divisor_changed_of_gated {phy : Option BusWord} {enable : Bool} {d d' : Divisor} (hnone : phy = none → d' = d)
    (hsome : ∀ w, phy = some w → d' = if enable then d else divisorOperand w) (h : d' ≠ d) :
    enable = false ∧ ∃ w, phy = some w ∧ d' = divisorOperand w := by
  cases phy with
  | none => exact absurd (hnone rfl) h
  | some w =>
    cases enable with
    | true => exact absurd (hsome w rfl) h
    | false => exact ⟨rfl, w, rfl, hsome w rfl⟩

section Divisor

variable {par : Parity}

/-- A tick of the RX direction ends with the register operation, on a direction with the enable and the divisor of the
start of the tick. -/
theorem rxStep_ends_with_op (c : RxCtl) (level : Bool) (r : RxDir) :
    ∃ ev r', rxStep par c level r = rxApplyOp c ev r.ready r' ∧ r'.enable = r.enable ∧ r'.divisor = r.divisor := by
  cases hrun : rxRuns c r with
  | false =>
    obtain ⟨-, hheld⟩ := rxStep_held par c level r hrun
    exact ⟨_, _, hheld, rfl, rfl⟩
  | true =>
    obtain ⟨hen, hdiv, -⟩ := rxApplyEvent_frame (rxEvent par c level r) (rxEngine par level r)
    exact ⟨_, _, rxStep_run level hrun, by rw [hen, rxEngine_frame], by rw [hdiv, rxEngine_frame]⟩

/-- Only a PhyConfig write changes the RX divisor, and only in a disabled direction. -/
theorem rxStep_divisor_changed {c : RxCtl} {level : Bool} {r : RxDir}
    (h : (rxStep par c level r).divisor ≠ r.divisor) :
    r.enable = false ∧ ∃ w, c.phy = some w ∧ (rxStep par c level r).divisor = divisorOperand w := by
  obtain ⟨ev, r', hstep, hen, hdiv⟩ := rxStep_ends_with_op (par := par) c level r
  obtain ⟨-, hafter, -⟩ := rxApplyOp_fields c ev r.ready r'
  rw [← hstep, hen, hdiv] at hafter
  exact divisor_changed_of_gated (fun hphy => by rw [hafter, hphy]) (fun w hphy => by rw [hafter, hphy]) h

/-- Only a PhyConfig write changes the TX divisor, and only in a disabled direction. -/
theorem txStep_divisor_changed {c : TxCtl} {t : TxDir} (h : (txStep par c t).divisor ≠ t.divisor) :
    t.enable = false ∧ ∃ w, c.phy = some w ∧ (txStep par c t).divisor = divisorOperand w := by
  have hkept : (if txRuns c t then txEngine par c.byte t else txHold t).enable = t.enable ∧
      (if txRuns c t then txEngine par c.byte t else txHold t).divisor = t.divisor := by
    split
    · exact txEngine_frame c.byte t
    · exact ⟨rfl, rfl⟩
  obtain ⟨hen, hdiv⟩ := hkept
  obtain ⟨-, hafter, -⟩ := txApplyOp_fields c (if txRuns c t then txEngine par c.byte t else txHold t)
  rw [← txStep, hen, hdiv] at hafter
  exact divisor_changed_of_gated (fun hphy => by rw [hafter, hphy]) (fun w hphy => by rw [hafter, hphy]) h

end Divisor

/-- Only an RxPhyConfig write strobes the RX divisor. -/
theorem eq_wrRxPhyConfig_of_phy {i : Instr} {s : State} {w : BusWord} (h : (busOpOf i s).rx.phy = some w) :
    i = .wrRxPhyConfig w := by
  cases i with
  | wrRxPhyConfig _ => exact congrArg Instr.wrRxPhyConfig (Option.some.inj h)
  | _ => cases h

/-- Only a TxPhyConfig write strobes the TX divisor. -/
theorem eq_wrTxPhyConfig_of_phy {i : Instr} {s : State} {w : BusWord} (h : (busOpOf i s).tx.phy = some w) :
    i = .wrTxPhyConfig w := by
  cases i with
  | wrTxPhyConfig _ => exact congrArg Instr.wrTxPhyConfig (Option.some.inj h)
  | _ => cases h

/-- Levels driven on the line change no divisor. -/
theorem driveLine_divisors (d : Nat) (levels : List Bool) {s : State} (hrst : s.ports.rst = false) :
    (driveLine d levels s).rx.divisor = s.rx.divisor ∧ (driveLine d levels s).tx.divisor = s.tx.divisor := by
  refine (driveLine_keeps (I := fun u => u.ports.rst = false ∧ u.rx.divisor = s.rx.divisor ∧
    u.tx.divisor = s.tx.divisor) (fun level u ⟨hu, hrx, htx⟩ => ?_) d levels s ⟨hrst, rfl, rfl⟩).2
  obtain ⟨-, hrx'⟩ := rxStep_idle_registers (par := u.cfg.parity) (r := u.rx) level
  obtain ⟨-, htx'⟩ := txStep_idle_registers (par := u.cfg.parity) (t := u.tx)
  rw [lineTick_rx level hu, lineTick_tx level hu]
  exact ⟨(lineTick_rst u level).trans hu, hrx'.trans hrx, htx'.trans htx⟩

/-- Settles O56: in an operation of one tick by `rxStep_divisor_changed` and `txStep_divisor_changed`; a line frame changes
no divisor. -/
theorem divisorChangesOnlyWhileDisabled : Obligations.DivisorChangesOnlyWhileDisabled := by
  intro i s t hrst hexec
  cases hl : isLineFrame i with
  | true =>
    obtain ⟨levels, rfl⟩ := exec_line_frame hl hexec
    obtain ⟨hrx, htx⟩ := driveLine_divisors s.rx.divisor.toNat levels hrst
    exact ⟨fun hchanged => absurd hrx hchanged, fun hchanged => absurd htx hchanged⟩
  | false =>
    have hrx := exec_rx hl hexec
    have htx := exec_tx hl hexec
    rw [hrst, if_neg Bool.false_ne_true] at hrx htx
    rw [hrx, htx]
    refine ⟨fun hchanged => ?_, fun hchanged => ?_⟩
    · obtain ⟨hoff, w, hphy, hdiv⟩ := rxStep_divisor_changed hchanged
      exact ⟨hoff, w, eq_wrRxPhyConfig_of_phy hphy, by rw [hdiv, divisorOperand_eq, BitVec.toNat_ofNat]⟩
    · obtain ⟨hoff, w, hphy, hdiv⟩ := txStep_divisor_changed hchanged
      exact ⟨hoff, w, eq_wrTxPhyConfig_of_phy hphy, by rw [hdiv, divisorOperand_eq, BitVec.toNat_ofNat]⟩

/-! ### What takes `ready` away (70_reset_and_hazards.md rule R196) -/

/-- In an enabled direction with its buffer full only a consume or a disable clears `ready`. -/
theorem rxStep_ready_falls {par : Parity} {c : RxCtl} {level : Bool} {r : RxDir} (hen : r.enable = true)
    (hready : r.ready = true) (hfell : (rxStep par c level r).ready = false) :
    c.consume = true ∨ c.enable = some false := by
  by_cases hoff : c.enable = some false
  · exact .inr hoff
  · obtain ⟨hfull, -⟩ := rxStep_keeps_full (par := par) level hen hready
    obtain ⟨-, -, -, hafter, -⟩ := rxApplyOp_fields c (rxEvent par {} level r) r.ready (rxStep par {} level r)
    rw [rxStep_eq_idle level hoff, hafter, hfull] at hfell
    cases hconsume : c.consume with
    | true => exact .inl rfl
    | false => simp [hconsume] at hfell

theorem txReady_iff (t : TxDir) : txReady t = true ↔ t.enable = true ∧ t.phase = .idle := by simp [txReady]

/-- A ready transmitter that is neither disabled nor offered a byte stays ready. -/
theorem txStep_keeps_ready {par : Parity} {c : TxCtl} {t : TxDir} (hready : txReady t = true)
    (hoff : c.enable ≠ some false) (hbyte : c.byte = none) : txReady (txStep par c t) = true := by
  obtain ⟨hen, hidle⟩ := (txReady_iff t).1 hready
  obtain ⟨hkeep, -⟩ := txStep_idle_registers (par := par) (t := t)
  obtain ⟨hafter, -⟩ := txApplyOp_fields c (txStep par {} t)
  refine (txReady_iff _).2 ⟨?_, ?_⟩
  · rw [txStep_eq_idle hoff hbyte, hafter, hkeep, hen]; exact enable_of_not_disabled hoff
  · rw [txStep_phase_of_idle c hidle, hbyte]; simp

/-- Only the RxData read strobes the consume. -/
theorem eq_rdRxData_of_consume {i : Instr} {s : State} (h : (busOpOf i s).rx.consume = true) : i = .rdRxData := by
  cases i with
  | rdRxData => rfl
  | _ => cases h

/-- Only an RxConfig write with bit 0 clear disables the RX direction. -/
theorem eq_wrRxConfig_of_disable {i : Instr} {s : State} (h : (busOpOf i s).rx.enable = some false) :
    ∃ w, i = .wrRxConfig w ∧ w.getLsbD 0 = false := by
  cases i with
  | wrRxConfig w => exact ⟨w, rfl, Option.some.inj h⟩
  | _ => cases h

/-- Only a TxConfig write with bit 0 clear disables the TX direction. -/
theorem eq_wrTxConfig_of_disable {i : Instr} {s : State} (h : (busOpOf i s).tx.enable = some false) :
    ∃ w, i = .wrTxConfig w ∧ w.getLsbD 0 = false := by
  cases i with
  | wrTxConfig w => exact ⟨w, rfl, Option.some.inj h⟩
  | _ => cases h

/-- Levels driven on the line take the `ready` of no enabled receiver away. -/
theorem driveLine_keeps_rx_ready (d : Nat) (levels : List Bool) {s : State} (hrst : s.ports.rst = false)
    (hen : s.rx.enable = true) (hready : s.rx.ready = true) : (driveLine d levels s).rx.ready = true := by
  refine (driveLine_keeps (I := fun u => u.ports.rst = false ∧ u.rx.enable = true ∧ u.rx.ready = true)
    (fun level u ⟨hu, hon, hfull⟩ => ?_) d levels s ⟨hrst, hen, hready⟩).2.2
  obtain ⟨hkeep, -⟩ := rxStep_idle_registers (par := u.cfg.parity) (r := u.rx) level
  obtain ⟨hstays, -⟩ := rxStep_keeps_full (par := u.cfg.parity) level hon hfull
  rw [lineTick_rx level hu]
  exact ⟨(lineTick_rst u level).trans hu, hkeep.trans hon, hstays⟩

/-- Levels driven on the line leave a ready transmitter ready. -/
theorem driveLine_keeps_tx_ready (d : Nat) (levels : List Bool) {s : State} (hrst : s.ports.rst = false)
    (hready : txReady s.tx = true) : txReady (driveLine d levels s).tx = true := by
  refine (driveLine_keeps (I := fun u => u.ports.rst = false ∧ txReady u.tx = true)
    (fun level u ⟨hu, hstays⟩ => ⟨(lineTick_rst u level).trans hu, ?_⟩) d levels s ⟨hrst, hready⟩).2
  rw [lineTick_tx level hu]
  exact txStep_keeps_ready hstays (by simp) rfl

/-- Settles O57: a receiver with `ready` set is enabled by the invariant, so `rxStep_ready_falls` names the strobe that
cleared it; a transmitter without a strobe stays ready (`txStep_keeps_ready`), and a line frame strobes nothing. -/
theorem readyFallsOnlyByAccessOrDisable : Obligations.ReadyFallsOnlyByAccessOrDisable := by
  intro i s t hgood hrst hexec
  obtain ⟨hinv, -, -⟩ := hgood
  cases hl : isLineFrame i with
  | true =>
    obtain ⟨levels, rfl⟩ := exec_line_frame hl hexec
    refine ⟨fun hready hfell => ?_, fun hready hfell => ?_⟩
    · rw [driveLine_keeps_rx_ready _ _ hrst (enable_of_ready hinv hready) hready] at hfell; cases hfell
    · rw [driveLine_keeps_tx_ready _ _ hrst hready] at hfell; cases hfell
  | false =>
    rw [exec_rx hl hexec, exec_tx hl hexec, hrst, if_neg Bool.false_ne_true, if_neg Bool.false_ne_true]
    refine ⟨fun hready hfell => ?_, fun hready hfell => ?_⟩
    · exact (rxStep_ready_falls (enable_of_ready hinv hready) hready hfell).imp eq_rdRxData_of_consume
        eq_wrRxConfig_of_disable
    · cases hbyte : (busOpOf i s).tx.byte with
      | some b => exact .inl (eq_wrTxData_of_byte hbyte)
      | none =>
        refine .inr (eq_wrTxConfig_of_disable (s := s) ?_)
        by_contra hoff
        rw [txStep_keeps_ready hready hoff hbyte] at hfell; cases hfell

/-! ### Quiet states (70_reset_and_hazards.md rule R209) -/

/-- A disabled transmitter in reset stays as it is. -/
theorem txStep_disabled {par : Parity} {t : TxDir} (hinv : TxInv par t) (hoff : t.enable = false) :
    txStep par {} t = t := by
  obtain ⟨hreset, -⟩ := hinv
  obtain ⟨hphase, htimer, hbit, hshreg, hline⟩ := hreset hoff
  rw [txStep_held par {} t (by simp [txRuns, hoff]), txApplyOp_noStrobe, txHold, ← hphase, ← htimer, ← hbit, ← hshreg,
    ← hline]

/-- An enabled transmitter without a byte to send waits on. -/
theorem txStep_rest {par : Parity} {t : TxDir} (hen : t.enable = true) (hidle : t.phase = .idle) :
    txStep par {} t = t := by
  rw [txStep_idle_run par t hen]; simp [txEngine, hidle]

/-- The RX direction of a quiet state stays: it is disabled, or waits on a line at rest. -/
theorem idleTick_rx_of_quiet {s : State} (hgood : GoodState s) (hquiet : Quiet s) : (idleTick s).rx = s.rx := by
  obtain ⟨hinv, -, -⟩ := hgood
  obtain ⟨hrst, -, -, -, hrx⟩ := hquiet
  rw [idleTick_rx hrst]
  cases hen : s.rx.enable with
  | false => exact rxStep_disabled _ hinv hen
  | true =>
    obtain ⟨hidle, hhigh⟩ := hrx.resolve_left (by simp [hen])
    rw [hhigh]; exact rxStep_rest hen hidle

/-- The TX direction of a quiet state stays: it is disabled, or has nothing to send. -/
theorem idleTick_tx_of_quiet {s : State} (hgood : GoodState s) (hquiet : Quiet s) : (idleTick s).tx = s.tx := by
  obtain ⟨-, hinv, -⟩ := hgood
  obtain ⟨hrst, -, -, htx, -⟩ := hquiet
  rw [idleTick_tx hrst]
  cases hen : s.tx.enable with
  | false => exact txStep_disabled hinv hen
  | true => exact txStep_rest hen (htx.resolve_left (by simp [hen]))

/-- A tick of a quiet state changes nothing of the hardware and ends in a quiet state. -/
theorem idleTick_quiet {s : State} (hgood : GoodState s) (hquiet : Quiet s) :
    SameHardware s (idleTick s) ∧ Quiet (idleTick s) := by
  have hrx := idleTick_rx_of_quiet hgood hquiet
  have htx := idleTick_tx_of_quiet hgood hquiet
  obtain ⟨hrst, hp, hno, htxrest, hrxrest⟩ := hquiet
  have hrests : SeqRests s (idleTick s) := by
    rw [idleTick_run hrst]; exact runTick_seqRests hp hrst hno rfl rfl
  have hlevel : lineLevel (idleTick s).ports s.tx = lineLevel s.ports s.tx := by
    rw [idleTick_run hrst]; rfl
  refine ⟨⟨idleTick_cfg s, hrx, htx, hrests.seq⟩, hrests.rst, ?_, hrests.noRead, ?_, ?_⟩
  · rw [hrests.seq, hp]
  · rwa [htx]
  · rwa [htx, hrx, hlevel]

/-- Settles O59: a tick keeps the invariant and the quiet (`idleTick_quiet`), and changes nothing of the hardware. -/
theorem quietStateNeverChanges : Obligations.QuietStateNeverChanges := by
  intro n s hgood hquiet
  refine (idleTicks_keeps (I := fun u => GoodState u ∧ Quiet u ∧ SameHardware s u) (fun u ⟨hu, hq, hsame⟩ => ?_) n s
    ⟨hgood, hquiet, rfl, rfl, rfl, rfl⟩).2.2
  obtain ⟨⟨hcfg, hrx, htx, hseq⟩, hstill⟩ := idleTick_quiet hu hq
  obtain ⟨hcfg', hrx', htx', hseq'⟩ := hsame
  exact ⟨tick_keeps_goodState noOp u.ports u hu, hstill, hcfg.trans hcfg', hrx.trans hrx', htx.trans htx',
    hseq.trans hseq'⟩

end Sys2Proof.Machine
